-- ==== Sys2Proof/Word.lean ====
section
/-! DEFINITION. The byte, the 16-byte block, the 48-byte mixing state and the 128-bit port (00_scope.md R7 to R9). -/

namespace Sys2Proof

/-- R9: an unsigned 8-bit value. -/
abbrev Byte := BitVec 8

/-- R7 `BLOCK_BYTES`: a 16-byte array (a data block, the checksum, a digest). -/
abbrev Block := Vector Byte 16

/-- R7 `STATE_BYTES`: the 48-byte array `X`. -/
abbrev MixState := Vector Byte 48

/-- R8 `DIN_WIDTH`, `DOUT_WIDTH`: the value of a 128-bit data port. -/
abbrev Port := BitVec 128

end Sys2Proof
end

