-- ==== Sys2Proof/Syntax.lean ====
section
/-! DEFINITION. The four commands, a command issue, and the assembler's lines (30_encoding.md R48 to R52, R56 to R60). -/

namespace Sys2Proof

/-- R60: the four commands. `absorb` and `final` carry the `din` sample taken with the command word (R52, R55).
`n` is `ARG`, a 4-bit field whose 16 values are all legal (R51), so every term is a command. -/
inductive Instr where
  /-- R93, `0x10`. -/
  | init
  /-- R76, `0x20`, the block on `din`. -/
  | absorb (din : Port)
  /-- R83, `0x30 | n`, the `n` leftover bytes on `din` bytes 0..n-1. -/
  | final (n : BitVec 4) (din : Port)
  /-- R89, `0x40`. -/
  | read
  deriving DecidableEq, Repr

/-- R48, R55: one command issue, the word on `cmd` and the sample of `din` taken with it. -/
structure Issue where
  cmd : Byte
  din : Port
  deriving DecidableEq, Repr

/-- R56 to R59: one line of the assembler, the four commands and the two pseudo-commands with their byte operands;
`word` is the raw command word that program P6 of 95_test_vectors.md writes as `.word`. -/
inductive Asm where
  | init
  | absorb (block : List Byte)
  | final (n : Nat) (bytes : List Byte)
  | read
  /-- R58: `ABSORBN <k>, <bytes_16k>`. -/
  | absorbN (k : Nat) (bytes : List Byte)
  /-- R59: `HASH <bytes>`. -/
  | hash (message : List Byte)
  | word (cmd : Byte)
  deriving DecidableEq, Repr

end Sys2Proof
end

