-- ==== Sys2Proof/Machine/State.lean ====
section
/-! DEFINITION. The state of one engine and of its host's command stream, as plain data; its reset value; the reasons a
step can stop (10_state.md R15 to R33, 60_exceptions.md R101). -/

namespace Sys2Proof.Machine

/-- R27: where the context is in its lifecycle (contract-tracking state of the spec's model). -/
inductive Phase where
  | OPEN
  | FINALIZED
  deriving DecidableEq, Repr

/-- R101: the cause codes of a recorded fault. -/
inductive FaultCause where
  | illegalCommand
  | absorbAfterFinal
  | finalAfterFinal
  | readBeforeFinal
  deriving DecidableEq, Repr

/-- R28: the record of a fault, its cause and the command byte that raised it. -/
structure FaultRecord where
  cause : FaultCause
  cmd   : Byte
  deriving DecidableEq, Repr

/-- R15: the digest context, the engine's whole architectural state. -/
structure Context where
  /-- R16: the running checksum. -/
  C : Block
  /-- R17: the carried checksum byte. -/
  L : Byte
  /-- R18: the mixing state, three 16-byte lanes. -/
  X : MixState
  deriving DecidableEq, Repr

/-- R33: `C = 0^16`, `L = 0x00`, `X = 0^48`, the context that reset and INIT both produce (R94). -/
def Context.zero : Context := ⟨Vector.replicate 16 0, 0, Vector.replicate 48 0⟩

/-- One engine instance and the commands its host issues to it. -/
structure State where
  /-- R15: `C`, `L` and `X`. -/
  ctx : Context
  /-- R27. -/
  phase : Phase
  /-- R28: the first fault raised, sticky. -/
  fault : Option FaultRecord
  /-- R30: the 128-bit data output register. -/
  dout : Port
  /-- R21: the host's finite command sequence of this run. -/
  program : List Issue
  /-- R21: the index of the next command in that sequence. -/
  k : Nat
  /-- R30, R131: the values READ has written to `dout` in this run, oldest first. The model's own field (log entry 9). -/
  reads : List Port
  /-- R118, R131: the command sequences of the runs the host still starts, each by asserting `rst`. The model's own field
  (log entry 5). -/
  laterRuns : List (List Issue)
  deriving DecidableEq, Repr

/-- Why a step of the model stops. (A fault of the spec is a RECORD in `State.fault`; see log entry 3.) -/
inductive Fault where
  /-- R109: a fault is recorded, so the model takes no further step. Raised by `stepHost` alone. Safe: no next state. -/
  | halted (r : FaultRecord)
  deriving DecidableEq, Repr

/-- Why the model gives no meaning. -/
inductive Refusal where
  /-- An instruction with no meaning in the model: raised by `exec`'s refused arms alone; there is none. Safe. -/
  | notModelled (mnemonic : String)
  /-- R115: a command addressed to an engine number the platform does not hold. Raised by `Platform.stepEngine` alone. Safe. -/
  | noSuchEngine (e : Nat)
  deriving DecidableEq, Repr

/-- R33: the state after reset. The spec gives `dout` no value: 0 is a DESIGN CHOICE, unsafe (log entry 2). The host's
sequences are empty: a program comes from outside (log entry 6). -/
def State.reset : State where
  ctx := Context.zero
  phase := .OPEN
  fault := none
  dout := 0
  program := []
  k := 0
  reads := []
  laterRuns := []

end Sys2Proof.Machine
end

