-- ==== Sys2Proof/Machine/Ops.lean ====
section
/-! DEFINITION. The operations shared by the commands and by the step: entering a fault, ending a command, and reset
(60_exceptions.md R108, R109; 43_context_control.md R97; 70_reset_and_hazards.md R118). -/

namespace Sys2Proof.Machine

/-- R101: the numbers of the cause codes. -/
def FaultCause.code : FaultCause → Nat
  | .illegalCommand => 1
  | .absorbAfterFinal => 2
  | .finalAfterFinal => 3
  | .readBeforeFinal => 4

/-- R108: fault entry, `fault <- (code, cmd)` and nothing else. It has no counterpart that returns: no command clears
`fault` (R109), and only `assertRst` ends a faulted run. -/
def raiseFault (cause : FaultCause) (cmd : Byte) (s : State) : State :=
  { s with fault := some ⟨cause, cmd⟩ }

/-- R97: `k` advances by one per completed command, and not past a command that faulted. -/
def advance (s : State) : State :=
  if s.fault = none then { s with k := s.k + 1 } else s

/-- R118: asserting `rst`, in any state. Every piece of state takes its value of R33 and a new run begins; `program` is
that run's command sequence, `later` those of the runs after it. -/
def assertRst (program : List Issue) (later : List (List Issue)) (_s : State) : State :=
  { State.reset with program := program, laterRuns := later }

end Sys2Proof.Machine
end

