-- ==== Sys2Proof/Machine/ContextControl.lean ====
section
/-! DEFINITION. Context control: INIT (43_context_control.md R93, R94, R99). -/

namespace Sys2Proof.Machine

/-- R93: INIT zeroes the context and sets `phase` to `OPEN`, in either phase. -/
def execInit (s : State) : Host.Outcome State Fault Refusal :=
  .next { s with ctx := Context.zero, phase := .OPEN }

end Sys2Proof.Machine
end

