-- ==== Sys2Proof/Decode.lean ====
section
/-! DEFINITION. The command word's fields, the decoder and the encoder (30_encoding.md R49 to R55). -/

namespace Sys2Proof

/-- Why a command word is reserved: the three classes of R53. -/
inductive Reserved where
  /-- `OPC = 0x0`, with any `ARG`: 16 words. -/
  | opcZero
  /-- `OPC` in `0x5`..`0xf`, with any `ARG`: 176 words. -/
  | opcUnassigned
  /-- `OPC` in `0x1, 0x2, 0x4` with `ARG ≠ 0`: 45 words. -/
  | argNonzero
  deriving DecidableEq, Repr

/-- R54: what decoding answers. -/
inductive Decoded where
  | command (i : Instr)
  | illegal (why : Reserved)
  deriving DecidableEq, Repr

/-- R49: `OPC = cmd[7:4]`. -/
def opc (cmd : Byte) : BitVec 4 := cmd.extractLsb' 4 4

/-- R49: `ARG = cmd[3:0]`. -/
def arg (cmd : Byte) : BitVec 4 := cmd.extractLsb' 0 4

/-- R51: for INIT, ABSORB and READ, `ARG` must be `0000`. -/
def whenArgZero (a : BitVec 4) (i : Instr) : Decoded :=
  if a = 0 then .command i else .illegal .argNonzero

/-- R54: decoding is total over the 256 command words; the command keeps the `din` sample it will read (R52). -/
def decode (cmd : Byte) (din : Port) : Decoded :=
  if opc cmd = 0x1 then whenArgZero (arg cmd) .init
  else if opc cmd = 0x2 then whenArgZero (arg cmd) (.absorb din)
  else if opc cmd = 0x3 then .command (.final (arg cmd) din)
  else if opc cmd = 0x4 then whenArgZero (arg cmd) .read
  else if opc cmd = 0x0 then .illegal .opcZero
  else .illegal .opcUnassigned

/-- R50, R51: the command word of an instruction. -/
def Instr.word : Instr → Byte
  | .init => 0x10
  | .absorb _ => 0x20
  | .final n _ => (0x3 : BitVec 4) ++ n
  | .read => 0x40

/-- R52: the `din` sample an instruction reads. INIT and READ do not read `din`: it is don't-care (R55), and the encoder
puts 0 there. DESIGN CHOICE, safe (log entry 7). -/
def Instr.sample : Instr → Port
  | .init => 0
  | .absorb din => din
  | .final _ din => din
  | .read => 0

/-- The issue that stands for an instruction. -/
def encode (i : Instr) : Issue := ⟨i.word, i.sample⟩

/-- The issue whose bits, numbered from the command word's bit 0, are the low `nbits` bits of `w`: `cmd` is bits 7:0 and
`din` bits 135:8. -/
def issueOfBits (nbits w : Nat) : Issue :=
  let bits := w % 2 ^ nbits
  ⟨BitVec.ofNat 8 bits, BitVec.ofNat 128 (bits >>> 8)⟩

/-- The instruction the decoder reads from a table row's word, every bit above `nbits` zero. -/
def decodeTableWord (nbits w : Nat) : Option Instr :=
  match decode (issueOfBits nbits w).cmd (issueOfBits nbits w).din with
  | .command i => some i
  | .illegal _ => none

end Sys2Proof
end

