-- ==== Sys2Proof/Machine/Flags.lean ====
section
/-! DEFINITION. The engine has no flags, condition codes or predicates (10_state.md R22): no computation sets an
architectural bit. The one condition a command tests is its `phase` precondition (10_state.md R27). -/

namespace Sys2Proof.Machine

/-- R76, R83, R89: a command runs in the phase it requires, and in the other phase enters its fault with no other effect
(R108). -/
def requirePhase (p : Phase) (cause : FaultCause) (cmd : Byte) (body : State → State) (s : State) :
    Host.Outcome State Fault Refusal :=
  if s.phase = p then .next (body s) else .next (raiseFault cause cmd s)

end Sys2Proof.Machine
end

