-- ==== Sys2Proof/Machine/Operands.lean ====
section
/-! DEFINITION. How 16-byte arrays cross the 128-bit ports, and the operands the commands take from `din`
(20_memory.md R37, 30_encoding.md R51, R52). -/

namespace Sys2Proof.Machine

/-- R37: byte `i` of a port, its bits `[8i+7 : 8i]`. -/
def portByte (p : Port) (i : Nat) : Byte := p.extractLsb' (8 * i) 8

/-- R52, ABSORB: `B[i] = din[8i+7 : 8i]` for `i` in 0..16. -/
def blockOfPort (din : Port) : Block := Vector.ofFn fun i => portByte din i

/-- The port value whose byte `i` is byte `i` of the list (R37): byte 0 is the least significant byte. -/
def portOfBytes : List Byte → Port
  | [] => 0
  | b :: bs => (portOfBytes bs <<< 8) ||| b.setWidth 128

/-- R37: a 16-byte array on a port. -/
def portOfBlock (A : Block) : Port := portOfBytes A.toList

/-- R51: `n = zext_8(cmd[3:0])`, the number of leftover bytes, 0 to 15. -/
def leftoverCount (n : BitVec 4) : Byte := n.setWidth 8

/-- R52, FINAL: `P[i] = din[8i+7 : 8i]` for `i` in 0..n; the other bytes of `din` are not read. -/
def leftoverBytes (n : Nat) (din : Port) : List Byte := (List.range n).map (portByte din)

end Sys2Proof.Machine
end

