-- ==== Sys2Proof/Config.lean ====
section
/-! DEFINITION. The parameters the algorithm and the interface fix, and the identity constants (00_scope.md R1, R2, R7, R8).
The OPEN parameters are no constants here: `N_ENGINES` is the length of `Machine.Platform.engines`, and no rule
reads `ENGINE_BASE` or the latencies (log entries 10 and 11). -/

namespace Sys2Proof.Config

/-- R1: the digest name. -/
def digestName : String := "MD2"

/-- R7: the internal block size in bytes. -/
def blockBytes : Nat := 16

/-- R7: the digest size in bytes. -/
def digestBytes : Nat := 16

/-- R7: the checksum size in bytes. -/
def checksumBytes : Nat := 16

/-- R7: the size of the mixing state in bytes. -/
def stateBytes : Nat := 48

/-- R7: the rounds of one PERMUTE. -/
def rounds : Nat := 18

/-- R7: the entries of the substitution table. -/
def tableEntries : Nat := 256

/-- R8: the width of the command word in bits. -/
def cmdWidth : Nat := 8

/-- R8: the width of `din` and of `dout` in bits. -/
def portWidth : Nat := 128

/-- R2: the object identifier 1.2.840.113549.2.2. The engine does not hold it; no command reads it. -/
def objectIdentifier : List Nat := [1, 2, 840, 113549, 2, 2]

/-- R2: the 18 bytes of the DigestInfo prefix. The engine does not hold them; no command reads them. -/
def digestInfoPrefix : List Byte :=
  [0x30, 0x20, 0x30, 0x0c, 0x06, 0x08, 0x2a, 0x86, 0x48] ++
  [0x86, 0xf7, 0x0d, 0x02, 0x02, 0x05, 0x00, 0x04, 0x10]

end Sys2Proof.Config
end

