-- ==== Sys2Proof/Machine/Permutation.lean ====
section
/-! DEFINITION. The Permutation Engine, PERMUTE (40_permutation_engine.md R63 to R72). -/

namespace Sys2Proof.Machine

/-- R64, step 1: `X[16 + j] <- B[j]` for `j` in 0..16. -/
def loadLane1 (X : MixState) (B : Block) : MixState :=
  Vector.ofFn fun i => if h : 16 ≤ i.val ∧ i.val < 32 then B[i.val - 16] else X[i]

/-- R65, step 2: `X[32 + j] <- X[j] ⊕ X[16 + j]` for `j` in 0..16. -/
def xorLane2 (X : MixState) : MixState :=
  Vector.ofFn fun i => if h : 32 ≤ i.val then X[i.val - 32] ^^^ X[i.val - 16] else X[i]

/-- R67: the inner pass over the bytes of the state in ascending order, `t <- X[j] ⊕ S[t]; X[j] <- t`, from the accumulator
`t`: the new bytes. -/
def passBytes (t : Byte) : List Byte → List Byte
  | [] => []
  | x :: xs => (x ^^^ S t) :: passBytes (x ^^^ S t) xs

theorem passBytes_length (t : Byte) (xs : List Byte) : (passBytes t xs).length = xs.length := by
  induction xs generalizing t with
  | nil => rfl
  | cons x xs ih => simp [passBytes, ih]

/-- R67: the inner pass on the 48-byte state. -/
def innerPass (t : Byte) (X : MixState) : MixState :=
  ⟨(passBytes t X.toList).toArray, by simp [passBytes_length]⟩

/-- R66: what carries from one round to the next, the accumulator and the state. -/
structure RoundState where
  t : Byte
  X : MixState
  deriving DecidableEq, Repr

/-- R67, R68: round `r`, the inner pass and then `t <- t +₈ r`. After the pass `t` is the last byte written (R67). -/
def permuteRound (q : RoundState) (r : Nat) : RoundState :=
  let X := innerPass q.t q.X
  ⟨X[47] + BitVec.ofNat 8 r, X⟩

/-- R66: `n` rounds, in ascending order from round 0, with `t` starting at `0x00`. -/
def rounds (n : Nat) (X : MixState) : RoundState :=
  (List.range n).foldl permuteRound ⟨0, X⟩

/-- R63: PERMUTE(X, B). -/
def permute (X : MixState) (B : Block) : MixState :=
  (rounds Config.rounds (xorLane2 (loadLane1 X B))).X

end Sys2Proof.Machine
end

