-- ==== Sys2Proof/Machine/BlockTransform.lean ====
section
/-! DEFINITION. The Block Transform: CHECKSUM_UPDATE and the command ABSORB (41_block_transform.md R73 to R80). -/

namespace Sys2Proof.Machine

/-- R73, R74: `C[j] <- C[j] ⊕ S[B[j] ⊕ L]; L <- C[j]`, in ascending `j`: the new checksum bytes. -/
def checksumBytes (L : Byte) : List Byte → List Byte → List Byte
  | c :: cs, b :: bs => (c ^^^ S (b ^^^ L)) :: checksumBytes (c ^^^ S (b ^^^ L)) cs bs
  | _, _ => []

theorem checksumBytes_length (L : Byte) (cs bs : List Byte) :
    (checksumBytes L cs bs).length = min cs.length bs.length := by
  induction cs generalizing L bs with
  | nil => simp [checksumBytes]
  | cons c cs ih => cases bs <;> simp [checksumBytes, ih]

/-- R73: the checksum CHECKSUM_UPDATE leaves. -/
def checksumUpdate (C : Block) (L : Byte) (B : Block) : Block :=
  ⟨(checksumBytes L C.toList B.toList).toArray, by simp [checksumBytes_length]⟩

/-- R76, R77, R85: fold a block into `C` and `L`, then permute `X` with the same block. The carry ends as the last
checksum byte (R74). -/
def blockTransform (B : Block) (x : Context) : Context :=
  let C := checksumUpdate x.C x.L B
  { C := C, L := C[15], X := permute x.X B }

/-- R76: ABSORB. -/
def execAbsorb (din : Port) (s : State) : Host.Outcome State Fault Refusal :=
  requirePhase .OPEN .absorbAfterFinal (Instr.absorb din).word
    (fun s => { s with ctx := blockTransform (blockOfPort din) s.ctx }) s

end Sys2Proof.Machine
end

