-- ==== Sys2Proof/Machine/Finalizer.lean ====
section
/-! DEFINITION. The Finalizer, PAD and FINAL, and the digest readout READ (42_finalizer.md R81 to R91). -/

namespace Sys2Proof.Machine

/-- R81: PAD(P, n), the `n` leftover bytes and then `16 - n` bytes of value `16 - n`. -/
def pad (P : List Byte) (n : Nat) : Block :=
  Vector.ofFn fun i => if i.val < n then P.getD i.val 0 else BitVec.ofNat 8 (Config.blockBytes - n)

/-- R83 with R84: the padded block FINAL builds from `ARG` and `din`. -/
def padBlock (n : BitVec 4) (din : Port) : Block :=
  pad (leftoverBytes (leftoverCount n).toNat din) (leftoverCount n).toNat

/-- R83, steps 2 and 3: absorb the padded block, then permute `X` with `C` as step 2 left it (R86). -/
def finalize (B : Block) (x : Context) : Context :=
  let y := blockTransform B x
  { y with X := permute y.X y.C }

/-- R83: FINAL. -/
def execFinal (n : BitVec 4) (din : Port) (s : State) : Host.Outcome State Fault Refusal :=
  requirePhase .OPEN .finalAfterFinal (Instr.final n din).word
    (fun s => { s with ctx := finalize (padBlock n din) s.ctx, phase := .FINALIZED }) s

/-- R38, R91: the digest, lane 0 of `X`. -/
def lane0 (X : MixState) : Block := Vector.ofFn fun i => X[i.val]

/-- R89: READ, `dout[8i+7:8i] <- X[i]`. The value written is also the run's next observation (R131, log entry 9). -/
def execRead (s : State) : Host.Outcome State Fault Refusal :=
  requirePhase .FINALIZED .readBeforeFinal Instr.read.word
    (fun s => { s with dout := portOfBlock (lane0 s.ctx.X), reads := s.reads ++ [portOfBlock (lane0 s.ctx.X)] }) s

end Sys2Proof.Machine
end

