-- ==== Sys2Proof/Machine/Dispatch.lean ====
section
/-! DEFINITION. The dispatch of a decoded command (43_context_control.md R95): one arm per constructor of Instr. -/

namespace Sys2Proof.Machine

def exec (i : Instr) (s : State) : Host.Outcome State Fault Refusal :=
  match i with
  | .init => Sys2Proof.Machine.execInit s
  | .absorb din => Sys2Proof.Machine.execAbsorb din s
  | .final n din => Sys2Proof.Machine.execFinal n din s
  | .read => Sys2Proof.Machine.execRead s

end Sys2Proof.Machine
end

