-- ==== Sys2Proof/Machine/Sequencer.lean ====
section
/-! DEFINITION. One step of the host's sequence: what runs next, and what follows a command (43_context_control.md R95, R97;
60_exceptions.md R107, R109; 70_reset_and_hazards.md R118, R131). -/

namespace Sys2Proof.Machine

/-- R97: after a command, `k` moves past it if it completed. -/
def thenAdvance : Host.Outcome State Fault Refusal → Host.Outcome State Fault Refusal
  | .next t => .next (advance t)
  | .fault f => .fault f
  | .refused r => .refused r

/-- R95, R107: one issued command, decoded first; a reserved word raises ILLEGAL_COMMAND whatever the phase. -/
def runIssue (c : Issue) (s : State) : Host.Outcome State Fault Refusal :=
  match decode c.cmd c.din with
  | .command i => thenAdvance (exec i s)
  | .illegal _ => .next (raiseFault .illegalCommand c.cmd s)

/-- R131: what follows a run that has ended. The host asserts `rst` if it starts another run (R118). Otherwise a faulted
state takes no step (R109), and a state that has run every command holds (R117, log entry 4). -/
def endOfRun (s : State) : Host.Outcome State Fault Refusal :=
  match s.laterRuns, s.fault with
  | run :: later, _ => .next (assertRst run later s)
  | [], some r => .fault (.halted r)
  | [], none => .next s

/-- R95: with no fault recorded, the next command of the host's sequence; otherwise the run has ended (R131). -/
def stepHost (s : State) : Host.Outcome State Fault Refusal :=
  match s.fault, s.program[s.k]? with
  | none, some c => runIssue c s
  | _, _ => endOfRun s

/-- The state whose very next step runs `c`: `c` is the command at index `k` and no fault is recorded (log entry 6).
Where `k` lies past the end of the sequence, the commands between, which are never issued, are INIT words. -/
def loadIssue (c : Issue) (s : State) : State :=
  { s with
    fault := none
    program := s.program.take s.k ++ List.replicate (s.k - s.program.length) ⟨0x10, 0⟩ ++ c :: s.program.drop (s.k + 1) }

end Sys2Proof.Machine
end

