-- ==== Sys2Proof/Machine/Step.lean ====
section
/-! DEFINITION. The step of the machine, under the host's fixed names. -/

namespace Sys2Proof.Machine

/-- R95: one model step. -/
def step (s : State) : Host.Outcome State Fault Refusal := stepHost s

/-- The state whose next step runs the table row's word, every bit above `nbits` zero (log entry 6). -/
def State.withFetchWord (s : State) (nbits w : Nat) : State := loadIssue (issueOfBits nbits w) s

end Sys2Proof.Machine
end

