-- ==== Sys2Proof/WellFormed.lean ====
section
/-! DEFINITION. Which assembler lines are well formed (30_encoding.md R56 to R58). Every term of `Instr` is a legal
command by its types (R51), so a check has something to refuse only where operands are still byte strings. -/

namespace Sys2Proof

/-- R56, R57: `<block16>` is exactly 16 bytes; `<n>` is 0 to 15 and `<bytes_n>` exactly `n` bytes; R58: `<bytes_16k>` is
exactly `16k` bytes. "A wrong length is a syntax error, refused by the transcriber and never encoded." -/
def Asm.wf : Asm → Bool
  | .init => true
  | .absorb block => block.length == Config.blockBytes
  | .final n bytes => decide (n < Config.blockBytes) && bytes.length == n
  | .read => true
  | .absorbN k bytes => bytes.length == Config.blockBytes * k
  | .hash _ => true
  | .word _ => true

end Sys2Proof
end

