-- ==== Sys2Proof/Machine/Assembler.lean ====
section
/-! DEFINITION. The assembler: what a line encodes to, the pseudo-commands' expansions, and the text of a line
(30_encoding.md R56 to R59). What R56 to R58 leave open in the text is in log entry 12. -/

namespace Sys2Proof.Machine

/-- R58: the issues of `ABSORBN <k>, <bytes>`; number `i` takes bytes `16i..16i+15`, in ascending `i`. -/
def absorbIssues (k : Nat) (bytes : List Byte) : List Issue :=
  (List.range k).map fun i => encode (.absorb (portOfBytes ((bytes.drop (16 * i)).take 16)))

/-- R56: the issue of `FINAL <n>, <bytes_n>`. The don't-care bytes of `din` are 0: DESIGN CHOICE, safe (log entry 7). -/
def finalIssue (n : Nat) (bytes : List Byte) : Issue :=
  encode (.final (BitVec.ofNat 4 n) (portOfBytes bytes))

/-- R59: the issues of `HASH M`. -/
def hashIssues (M : List Byte) : List Issue :=
  let q := M.length / 16
  let n := M.length - 16 * q
  encode .init :: (absorbIssues q (M.take (16 * q)) ++ [finalIssue n (M.drop (16 * q)), encode .read])

/-- R56, R58, R59: what a well-formed line encodes to. -/
def expand : Asm → List Issue
  | .init => [encode .init]
  | .absorb block => [encode (.absorb (portOfBytes block))]
  | .final n bytes => [finalIssue n bytes]
  | .read => [encode .read]
  | .absorbN k bytes => absorbIssues k bytes
  | .hash M => hashIssues M
  | .word cmd => [⟨cmd, 0⟩]

/-- R57: a line of wrong length is never encoded. R57 says nothing of the other lines of such a text: that no line of it is
encoded then is a DESIGN CHOICE (log entry 12). -/
def assemble (lines : List Asm) : Option (List Issue) :=
  if lines.all Asm.wf then some (lines.flatMap expand) else none

/-- A blank between the parts of a line: space, tab or carriage return, everywhere on it. DESIGN CHOICE (log entry 12). -/
def isBlank (c : Char) : Bool := c == ' ' || c == '\t' || c == '\r'

/-- The rest of a line after its blanks. -/
def skipBlanks (cs : List Char) : List Char := cs.dropWhile isBlank

/-- R56: nothing but blanks and a comment is left; `;` starts a comment. -/
def isLineEnd (cs : List Char) : Bool :=
  match skipBlanks cs with
  | [] => true
  | c :: _ => c == ';'

/-- R57: the value of a hexadecimal digit. -/
def hexDigit (c : Char) : Option Nat :=
  if c.isDigit then some (c.toNat - '0'.toNat)
  else if 'a' ≤ c ∧ c ≤ 'f' then some (c.toNat - 'a'.toNat + 10)
  else if 'A' ≤ c ∧ c ≤ 'F' then some (c.toNat - 'A'.toNat + 10)
  else none

/-- R57: `2k` hexadecimal digits as `k` bytes, the first two digits byte 0. -/
def hexPairs : List Char → Option (List Byte)
  | [] => some []
  | [_] => none
  | c :: d :: rest => do
    let hi ← hexDigit c
    let lo ← hexDigit d
    let bytes ← hexPairs rest
    return BitVec.ofNat 8 (16 * hi + lo) :: bytes

/-- R57: an ASCII string after its opening quote, one byte per character, and what follows its closing quote. -/
def quotedBytes : List Char → Option (List Byte × List Char)
  | [] => none
  | c :: rest =>
    if c = '"' then some ([], rest)
    else if c.toNat < 128 then (quotedBytes rest).map fun r => (BitVec.ofNat 8 c.toNat :: r.1, r.2)
    else none

/-- R57: a byte operand, in either of its two forms, and what follows it. -/
def byteOperand (cs : List Char) : Option (List Byte × List Char) :=
  match skipBlanks cs with
  | '0' :: 'x' :: rest => (hexPairs (rest.takeWhile Char.isAlphanum)).map fun b => (b, rest.dropWhile Char.isAlphanum)
  | '"' :: rest => quotedBytes rest
  | _ => none

/-- A decimal number, and what follows it. R56 says decimal of FINAL's `<n>`; no text gives ABSORBN's `<k>` a base or a bound,
and reading it as an unbounded decimal number, and letting either begin with zeros, is a DESIGN CHOICE (log entry 12). -/
def decimalOperand (cs : List Char) : Option (Nat × List Char) :=
  match (skipBlanks cs).takeWhile Char.isDigit with
  | [] => none
  | ds => some (ds.foldl (fun v d => 10 * v + (d.toNat - '0'.toNat)) 0, (skipBlanks cs).dropWhile Char.isDigit)

/-- R56: the last operand of a line, with nothing after it. -/
def lastBytes (cs : List Char) : Option (List Byte) :=
  (byteOperand cs).bind fun r => if isLineEnd r.2 then some r.1 else none

/-- R56, R58: a number, a comma and the last operand of a line; ABSORBN's number is read as FINAL's is: DESIGN CHOICE (log
entry 12). -/
def countedBytes (cs : List Char) : Option (Nat × List Byte) := do
  let (n, rest) ← decimalOperand cs
  match skipBlanks rest with
  | ',' :: more => return (n, ← lastBytes more)
  | _ => none

/-- R56: the operands of FINAL; with `n = 0` the byte operand is left out. -/
def finalOperands (cs : List Char) : Option (Nat × List Byte) := do
  let (n, rest) ← decimalOperand cs
  if n = 0 then (if isLineEnd rest then some (0, []) else none) else countedBytes cs

/-- The characters of a mnemonic. -/
def isMnemonicChar (c : Char) : Bool := c.isAlpha || c == '.'

/-- R56, R58, R59: one line of text, no line for a blank or a comment; `none` is a syntax error. Mnemonics are
case-insensitive. That a blank, a comment or the line's end must follow a mnemonic is a DESIGN CHOICE (log entry 12). -/
def parseLine (line : List Char) : Option (List Asm) :=
  let cs := skipBlanks line
  let mnemonic := (cs.takeWhile isMnemonicChar).map Char.toUpper
  let rest := cs.dropWhile isMnemonicChar
  let bare (a : Asm) : Option (List Asm) := if isLineEnd rest then some [a] else none
  if isLineEnd cs then some []
  else if !(isLineEnd rest || isBlank (rest.headD ';')) then none
  else if mnemonic = "INIT".toList then bare .init
  else if mnemonic = "READ".toList then bare .read
  else if mnemonic = "ABSORB".toList then (lastBytes rest).map fun b => [.absorb b]
  else if mnemonic = "FINAL".toList then (finalOperands rest).map fun r => [.final r.1 r.2]
  else if mnemonic = "ABSORBN".toList then (countedBytes rest).map fun r => [.absorbN r.1 r.2]
  else if mnemonic = "HASH".toList then (lastBytes rest).map fun b => [.hash b]
  else if mnemonic = ".WORD".toList then
    (lastBytes rest).bind fun b => match b with
      | [cmd] => some [.word cmd]
      | _ => none
  else none

/-- R56: one command per line. That one line with a syntax error refuses the whole text is a DESIGN CHOICE (log entry 12). -/
def parseText (text : List Char) : Option (List Asm) :=
  ((text.splitOn '\n').mapM parseLine).map List.flatten

/-- R56, R57: the transcriber, from text to the issues of a run. -/
def assembleText (text : String) : Option (List Issue) := (parseText text.toList).bind assemble

end Sys2Proof.Machine
end

