-- ==== Sys2Proof/Machine/Hash.lean ====
section
/-! DEFINITION. The hash as a whole: MD2 of a message, from the engine's own functions (42_finalizer.md R92). The engine
does not run it; it is what claims compare a run of the commands with. -/

namespace Sys2Proof.Machine

/-- R36: the block whose byte `i` is byte `i` of the list. R92 applies it to at least 16 bytes. -/
def blockOfBytes (bytes : List Byte) : Block := Vector.ofFn fun i => bytes.getD i.val 0

/-- R92: `for k in 0..q: ABSORB-body(M[16k .. 16k+16])`. -/
def absorbBlocks (M : List Byte) (q : Nat) (x : Context) : Context :=
  (List.range q).foldl (fun x k => blockTransform (blockOfBytes (M.drop (16 * k))) x) x

/-- R92: `q = floor(len / 16)`. -/
def fullBlocks (M : List Byte) : Nat := M.length / 16

/-- R92: `n = len - 16q`. -/
def leftoverLength (M : List Byte) : Nat := M.length - 16 * fullBlocks M

/-- R92: the context MD2(M) ends in. -/
def md2Context (M : List Byte) : Context :=
  finalize (pad (M.drop (16 * fullBlocks M)) (leftoverLength M)) (absorbBlocks M (fullBlocks M) Context.zero)

/-- R92: MD2(M), `X[0..16]` of that context. -/
def md2 (M : List Byte) : Block := lane0 (md2Context M).X

end Sys2Proof.Machine
end

