-- ==== Sys2Proof/Machine/Platform.lean ====
section
/-! DEFINITION. Several engine instances (20_memory.md R44, 60_exceptions.md R115). They share no mutable state: `S` is a
constant, and everything else is each engine's own State. -/

namespace Sys2Proof.Machine

/-- R8, R115: the platform's instances, numbered from 0; `N_ENGINES` is the length of the list. -/
structure Platform where
  engines : List State
  deriving DecidableEq, Repr

/-- R8, R115: `N_ENGINES >= 1`. -/
abbrev Platform.wf (p : Platform) : Prop := 1 ≤ p.engines.length

/-- R115: instances start at reset. -/
def Platform.reset (nEngines : Nat) : Platform := ⟨List.replicate nEngines State.reset⟩

/-- R44: one step of instance `e`; the others stand as they are. -/
def Platform.stepEngine (e : Nat) (p : Platform) : Host.Outcome Platform Fault Refusal :=
  match p.engines[e]? with
  | none => .refused (.noSuchEngine e)
  | some s =>
    match step s with
    | .next t => .next ⟨p.engines.set e t⟩
    | .fault f => .fault f
    | .refused r => .refused r

end Sys2Proof.Machine
end

