-- ==== Sys2Proof/Machine/Reference.lean ====
section
/-! DEFINITION. The pseudocode of PERMUTE, CHECKSUM_UPDATE and PAD transcribed line by line, as loops that write one array
element at a time (40_permutation_engine.md R63, 41_block_transform.md R73, 42_finalizer.md R81). The machine does not
run these; claims compare its functions with them. -/

namespace Sys2Proof.Machine.Reference

/-- An array as the pseudocode reads it, by index. -/
abbrev Bytes := Nat → Byte

/-- R10: `A[i] <- v`. -/
def write (A : Bytes) (i : Nat) (v : Byte) : Bytes := fun j => if j = i then v else A j

/-- R9: `for i in a..b`, half-open and ascending. -/
def loop {σ : Type} (a b : Nat) (body : σ → Nat → σ) (s : σ) : σ := (List.range' a (b - a)).foldl body s

/-- R63: PERMUTE. -/
def permute (X B : Bytes) : Bytes :=
  let X := loop 0 16 (fun X j => write X (16 + j) (B j)) X
  let X := loop 0 16 (fun X j => write X (32 + j) (X j ^^^ X (16 + j))) X
  (loop 0 18 (fun (q : Byte × Bytes) r =>
    let q := loop 0 48 (fun (q : Byte × Bytes) j =>
      let t := q.2 j ^^^ S q.1
      (t, write q.2 j t)) q
    (q.1 + BitVec.ofNat 8 r, q.2)) (0x00, X)).2

/-- R73: CHECKSUM_UPDATE, answering `C` and `L`. -/
def checksumUpdate (C : Bytes) (L : Byte) (B : Bytes) : Bytes × Byte :=
  loop 0 16 (fun (q : Bytes × Byte) j =>
    let C := write q.1 j (q.1 j ^^^ S (B j ^^^ q.2))
    (C, C j)) (C, L)

/-- R81: PAD, from any previous contents of the buffer `B_pad`. -/
def pad (B_pad P : Bytes) (n : Nat) : Bytes :=
  let padLen := 16 - n
  let B_pad := loop 0 n (fun A i => write A i (P i)) B_pad
  loop n 16 (fun A i => write A i (BitVec.ofNat 8 padLen)) B_pad

end Sys2Proof.Machine.Reference
end

