-- ==== Sys2Proof/Safety.lean ====
section
/-! DEFINITION. The terms claims are stated in: a good state, the end and the observation of a run, the invariant, and what
two states share (60_exceptions.md R109, 70_reset_and_hazards.md R131, 10_state.md R32). -/

namespace Sys2Proof.Machine

/-- R109: no fault is recorded. "A state with `fault ≠ none` is terminal, and it is never a good final state." -/
abbrev State.good (s : State) : Prop := s.fault = none

/-- `n` steps, stopping where a step answers no next state. -/
def runSteps : Nat → State → Host.Outcome State Fault Refusal
  | 0, s => .next s
  | n + 1, s =>
    match step s with
    | .next t => runSteps n t
    | .fault f => .fault f
    | .refused r => .refused r

/-- R131: the run ends when the host's sequence is exhausted, or at the first fault. -/
abbrev State.runEnded (s : State) : Prop := s.program.length ≤ s.k ∨ s.fault ≠ none

/-- R131: the observation of a run. -/
structure Observation where
  reads   : List Port
  faulted : Bool
  deriving DecidableEq, Repr

/-- R131: the values READ wrote, in order, together with whether the run ended faulted. -/
def State.observation (s : State) : Observation := ⟨s.reads, s.fault.isSome⟩

/-- R95: the next step runs the issue `c`. -/
abbrev State.nextIssue (s : State) (c : Issue) : Prop := s.fault = none ∧ s.program[s.k]? = some c

/-- R101: the condition and the recorded command of each cause. -/
def FaultRecord.Fits (r : FaultRecord) (p : Phase) : Prop :=
  match r.cause with
  | .illegalCommand => ∃ why, ∀ din, decode r.cmd din = .illegal why
  | .absorbAfterFinal => r.cmd = 0x20 ∧ p = .FINALIZED
  | .finalAfterFinal => opc r.cmd = 0x3 ∧ p = .FINALIZED
  | .readBeforeFinal => r.cmd = 0x40 ∧ p = .OPEN

/-- What holds of the machine between two steps. -/
structure State.Inv (s : State) : Prop where
  /-- R17, R74: `L = C[15]`. -/
  carry : s.ctx.L = s.ctx.C[15]
  /-- R97: `k` is never past the end of the host's sequence. -/
  index : s.k ≤ s.program.length
  /-- R97, R131: at most one READ per completed command. -/
  readCount : s.reads.length ≤ s.k
  /-- R30, R131: `dout` holds the last value a READ of this run wrote. -/
  output : ∀ v, s.reads.getLast? = some v → s.dout = v
  /-- R101, R108: a recorded fault is one of R101's rows, and the phase is as it was. -/
  record : ∀ r, s.fault = some r → r.Fits s.phase

/-- The host's side and the outputs are the same: all of State but `ctx`, `phase` and `fault`. -/
def State.SameOutside (s t : State) : Prop :=
  t.dout = s.dout ∧ t.reads = s.reads ∧ t.program = s.program ∧ t.k = s.k ∧ t.laterRuns = s.laterRuns

/-- An array read by index, for the pseudocode of `Reference`. -/
def bytesOf {n : Nat} (A : Vector Byte n) : Reference.Bytes := fun i => A.toList.getD i 0

/-- R37: the term `zext_128(A[i]) << 8i` of the sum that is the port's value. -/
def portTerm (A : Block) (i : Fin 16) : Port := (A[i]).setWidth 128 <<< (8 * i.val)

/-- R61: the 19 legal command words. -/
def legalWords : List Byte :=
  [0x10, 0x20, 0x30, 0x31, 0x32, 0x33, 0x34, 0x35, 0x36, 0x37] ++
  [0x38, 0x39, 0x3a, 0x3b, 0x3c, 0x3d, 0x3e, 0x3f, 0x40]

end Sys2Proof.Machine
end

