-- ==== Sys2Proof/Certificates/Slice0/Obligations.lean ====
section
/-! DEFINITION. The statements about the MD2 engine, from the numbered rules of spec/. -/

open Sys2Proof Sys2Proof.Machine

/-! ## Encoding -/

/-- A few words written out from R50 and R51, and reserved words of each class of R53, decode to what they stand for. -/
def Obligations.DecodeExamples : Prop :=
  ∀ din : Port,
    decode 0b00010000 din = .command .init ∧
    decode 0b00100000 din = .command (.absorb din) ∧
    decode 0b00110000 din = .command (.final 0 din) ∧
    decode 0b00110011 din = .command (.final 3 din) ∧
    decode 0b00111111 din = .command (.final 15 din) ∧
    decode 0b01000000 din = .command .read ∧
    decode 0b00000000 din = .illegal .opcZero ∧
    decode 0b01010000 din = .illegal .opcUnassigned ∧
    decode 0b01000001 din = .illegal .argNonzero

/-- R49: `OPC` is bits 7:4 of the command word and `ARG` bits 3:0. -/
def Obligations.WordFields : Prop :=
  ∀ cmd : Byte, (opc cmd).toNat = cmd.toNat / 16 ∧ (arg cmd).toNat = cmd.toNat % 16 ∧ cmd = opc cmd ++ arg cmd

/-- R50: which words each operation has, INIT, ABSORB and READ with `ARG = 0` and FINAL with any `ARG`, and that every
other `OPC` value is reserved. -/
def Obligations.OpcodeAssignment : Prop :=
  ∀ (cmd : Byte) (din : Port),
    (decode cmd din = .command .init ↔ opc cmd = 0x1 ∧ arg cmd = 0) ∧
    (∀ d, decode cmd din = .command (.absorb d) ↔ opc cmd = 0x2 ∧ arg cmd = 0 ∧ d = din) ∧
    (∀ n d, decode cmd din = .command (.final n d) ↔ opc cmd = 0x3 ∧ n = arg cmd ∧ d = din) ∧
    (decode cmd din = .command .read ↔ opc cmd = 0x4 ∧ arg cmd = 0) ∧
    (opc cmd ∉ [0x1, 0x2, 0x3, 0x4] → ∃ why, decode cmd din = .illegal why)

/-- Decoding an encoded instruction gives it back, and a word that decodes to an instruction is that instruction's word;
the `din` sample is kept wherever the instruction reads it (R52). -/
def Obligations.DecodeEncodeAgree : Prop :=
  (∀ i : Instr, decode (encode i).cmd (encode i).din = .command i) ∧
  (∀ (cmd : Byte) (din : Port) (i : Instr), decode cmd din = .command i →
    (encode i).cmd = cmd ∧ (i = .init ∨ i = .read ∨ (encode i).din = din))

/-- R53: the three classes of reserved words, 237 in number; issuing one raises ILLEGAL_COMMAND with the word recorded and
no other effect, in every state that has no fault recorded. -/
def Obligations.ReservedWordsRaiseIllegalCommand : Prop :=
  (∀ (cmd : Byte) (din : Port),
    (decode cmd din = .illegal .opcZero ↔ cmd.toNat ≤ 0x0f) ∧
    (decode cmd din = .illegal .opcUnassigned ↔ 0x50 ≤ cmd.toNat) ∧
    (decode cmd din = .illegal .argNonzero ↔
      (0x11 ≤ cmd.toNat ∧ cmd.toNat ≤ 0x1f) ∨ (0x21 ≤ cmd.toNat ∧ cmd.toNat ≤ 0x2f) ∨
      (0x41 ≤ cmd.toNat ∧ cmd.toNat ≤ 0x4f))) ∧
  ((List.range 256).countP fun w => decodeTableWord 8 w = none) = 237 ∧
  (∀ (s : State) (cmd : Byte) (din : Port) (why : Reserved), s.nextIssue ⟨cmd, din⟩ → decode cmd din = .illegal why →
    step s = .next { s with fault := some ⟨.illegalCommand, cmd⟩ })

/-! ## Ports and operands -/

/-- R37: byte `i` of an array sits on bits `[8i+7 : 8i]` of the port; the port's value is the sum of the bytes, each
shifted by `8i`; and the array and the port value determine each other. -/
def Obligations.PortBytesPacking : Prop :=
  (∀ (A : Block) (i : Fin 16), (portOfBlock A).extractLsb' (8 * i.val) 8 = A[i]) ∧
  (∀ A : Block, portOfBlock A = ((List.finRange 16).map (portTerm A)).sum) ∧
  (∀ A : Block, blockOfPort (portOfBlock A) = A) ∧ (∀ p : Port, portOfBlock (blockOfPort p) = p)

/-! ## The substitution table -/

/-- R26 (an inference of the spec, "each follows from the table of rule R25 [derived: from rule R25]"): `S` is a permutation of
the bytes with no fixed point, and its entries sum to 32640. It speaks of the table the model holds, whose contents are
PRESUMED (log entry 8): the source does not print them, and the spec supplies them from general knowledge. -/
def Obligations.SubstitutionTableIsPermutation : Prop :=
  Function.Bijective S ∧ (∀ i : Byte, S i ≠ i) ∧
  ((List.range 256).map fun i => (S (BitVec.ofNat 8 i)).toNat).sum = 32640

/-! ## PERMUTE -/

/-- R64, R65: after steps 1 and 2, lane 0 is unchanged, lane 1 is the block and lane 2 is the exclusive-or of lane 0 and
lane 1. -/
def Obligations.LaneLoadAndXor : Prop :=
  ∀ (X : MixState) (B : Block) (j : Nat) (h : j < 16),
    (loadLane1 X B)[j] = X[j] ∧ (loadLane1 X B)[16 + j] = B[j] ∧ (loadLane1 X B)[32 + j] = X[32 + j] ∧
    (xorLane2 (loadLane1 X B))[j] = X[j] ∧ (xorLane2 (loadLane1 X B))[16 + j] = B[j] ∧
    (xorLane2 (loadLane1 X B))[32 + j] = X[j] ^^^ B[j]

/-- R67: each step of the inner pass reads `S` at the byte the step before it wrote, the first step at the accumulator the
pass starts with. -/
def Obligations.InnerPassSteps : Prop :=
  ∀ (t : Byte) (X : MixState),
    (innerPass t X)[0] = X[0] ^^^ S t ∧
    (∀ (j : Nat) (h : j < 47), (innerPass t X)[j + 1] = X[j + 1] ^^^ S (innerPass t X)[j])

/-- R66, R68: `t` starts at 0 in every call and carries across the rounds; round `r` is an inner pass and then `t <- t +₈ r`;
PERMUTE runs rounds 0 to 17. That `t` is the last byte of the pass is an inference of the spec (40_permutation_engine.md
R67, "So after the pass, `t` equals the new `X[47]` [derived: from this rule]"). -/
def Obligations.RoundsCarryAccumulator : Prop :=
  (∀ X : MixState, rounds 0 X = ⟨0x00, X⟩) ∧
  (∀ (r : Nat) (X : MixState), (rounds (r + 1) X).X = innerPass (rounds r X).t (rounds r X).X ∧
    (rounds (r + 1) X).t.toNat = ((rounds (r + 1) X).X[47].toNat + r) % 256) ∧
  (∀ (X : MixState) (B : Block), permute X B = (rounds 18 (xorLane2 (loadLane1 X B))).X)

/-- R63: the machine's PERMUTE computes, at every index, what the rule's pseudocode computes. -/
def Obligations.PermuteMeetsPseudocode : Prop :=
  ∀ (X : MixState) (B : Block) (i : Fin 48), (permute X B)[i] = Reference.permute (bytesOf X) (bytesOf B) i

/-- R70 (an inference of the spec): PERMUTE depends on lane 0 of its input state and on the block alone. -/
def Obligations.PermuteReadsOnlyLane0 : Prop :=
  ∀ (X Y : MixState) (B : Block), lane0 X = lane0 Y → permute X B = permute Y B

/-! ## CHECKSUM_UPDATE and PAD -/

/-- R73: the machine's CHECKSUM_UPDATE computes, at every index, what the rule's pseudocode computes, and leaves its carry. -/
def Obligations.ChecksumMeetsPseudocode : Prop :=
  ∀ (x : Context) (B : Block),
    (∀ j : Fin 16, (checksumUpdate x.C x.L B)[j] = (Reference.checksumUpdate (bytesOf x.C) x.L (bytesOf B)).1 j) ∧
    (blockTransform B x).C = checksumUpdate x.C x.L B ∧
    (blockTransform B x).L = (Reference.checksumUpdate (bytesOf x.C) x.L (bytesOf B)).2

/-- R74: each checksum byte uses the carry that the byte before it left, the first byte the carry of the block before; and
(an inference of the spec, 41_block_transform.md R74 "After every CHECKSUM_UPDATE, `L = C[15]`") the carry ends as the
last byte. -/
def Obligations.ChecksumCarryChain : Prop :=
  ∀ (x : Context) (B : Block),
    (blockTransform B x).C[0] = x.C[0] ^^^ S (B[0] ^^^ x.L) ∧
    (∀ (j : Nat) (h : j < 15),
      (blockTransform B x).C[j + 1] = x.C[j + 1] ^^^ S (B[j + 1] ^^^ (blockTransform B x).C[j])) ∧
    (blockTransform B x).L = (blockTransform B x).C[15]

/-- R81: for every `ARG`, the padded block keeps the leftover bytes of `din` and fills the rest with `padLen = 16 - n`, a
value of 1 to 16; it is what the rule's pseudocode leaves in the buffer, whatever the buffer held. -/
def Obligations.PadFillsWithPadLength : Prop :=
  ∀ (n : BitVec 4) (din : Port) (i : Fin 16),
    (i.val < n.toNat → (padBlock n din)[i] = din.extractLsb' (8 * i.val) 8) ∧
    (n.toNat ≤ i.val → (padBlock n din)[i].toNat = 16 - n.toNat ∧ 1 ≤ 16 - n.toNat ∧ 16 - n.toNat ≤ 16) ∧
    (∀ A : Reference.Bytes, (padBlock n din)[i] = Reference.pad A (portByte din) n.toNat i)

/-- R82: a block-aligned message is still padded: its HASH ends with FINAL 0 and READ, and FINAL 0 absorbs a full block of
sixteen `0x10` bytes and folds the checksum. -/
def Obligations.AlignedMessageGetsFullPadBlock : Prop :=
  (∀ din : Port, padBlock 0 din = Vector.replicate 16 0x10) ∧
  (∀ M : List Byte, M.length % 16 = 0 →
    ∃ f : Issue, f.cmd = 0x30 ∧ hashIssues M = encode .init :: (absorbIssues (M.length / 16) M ++ [f, encode .read])) ∧
  (∀ (s : State) (din : Port), s.phase = .OPEN →
    exec (.final 0 din) s =
      .next { s with ctx := finalize (Vector.replicate 16 0x10) s.ctx, phase := .FINALIZED })

/-! ## The commands -/

/-- R93: from every state INIT zeroes `C`, `L` and `X`, sets the phase to OPEN and changes nothing else; INIT twice is INIT
once; INIT with `ARG ≠ 0` is reserved. -/
def Obligations.InitZeroesContext : Prop :=
  (∀ s : State, ∃ t, exec .init s = .next t ∧
    (∀ j : Fin 16, t.ctx.C[j] = 0x00) ∧ t.ctx.L = 0x00 ∧ (∀ j : Fin 48, t.ctx.X[j] = 0x00) ∧ t.phase = .OPEN ∧
    t.fault = s.fault ∧ s.SameOutside t ∧ exec .init t = .next t) ∧
  (∀ (cmd : Byte) (din : Port), opc cmd = 0x1 → arg cmd ≠ 0 → decode cmd din = .illegal .argNonzero)

/-- R76: in phase OPEN, ABSORB completes: `C` and `L` are those of CHECKSUM_UPDATE's pseudocode and `X` that of PERMUTE's,
both with the block on `din`, and nothing else changes. In phase FINALIZED it raises ABSORB_AFTER_FINAL, with `0x20`
recorded, and changes nothing else. ABSORB with `ARG ≠ 0` is reserved. -/
def Obligations.AbsorbTransformsBlock : Prop :=
  (∀ (din : Port) (s : State), s.phase = .OPEN → ∃ t, exec (.absorb din) s = .next t ∧
    (∀ j : Fin 16, t.ctx.C[j] = (Reference.checksumUpdate (bytesOf s.ctx.C) s.ctx.L (portByte din)).1 j) ∧
    t.ctx.L = (Reference.checksumUpdate (bytesOf s.ctx.C) s.ctx.L (portByte din)).2 ∧
    (∀ j : Fin 48, t.ctx.X[j] = Reference.permute (bytesOf s.ctx.X) (portByte din) j) ∧
    t.phase = .OPEN ∧ t.fault = s.fault ∧ s.SameOutside t) ∧
  (∀ (din : Port) (s : State), s.phase = .FINALIZED →
    exec (.absorb din) s = .next { s with fault := some ⟨.absorbAfterFinal, 0x20⟩ }) ∧
  (∀ (cmd : Byte) (din : Port), opc cmd = 0x2 → arg cmd ≠ 0 → decode cmd din = .illegal .argNonzero)

/-- R83: in phase OPEN, FINAL completes for every `n` and `din`: `C` and `L` are those of CHECKSUM_UPDATE with the padded
block, `X` is PERMUTE with the padded block and then PERMUTE with `C` as the update left it, the phase is FINALIZED, and
nothing else changes. In phase FINALIZED it raises FINAL_AFTER_FINAL, with its command word `0x30 + n` recorded, and
changes nothing else. -/
def Obligations.FinalPadsAbsorbsAndFolds : Prop :=
  (∀ (n : BitVec 4) (din : Port) (s : State), s.phase = .OPEN → ∃ t, exec (.final n din) s = .next t ∧
    (∀ j : Fin 16, t.ctx.C[j] =
      (Reference.checksumUpdate (bytesOf s.ctx.C) s.ctx.L (Reference.pad (fun _ => 0) (portByte din) n.toNat)).1 j) ∧
    t.ctx.L =
      (Reference.checksumUpdate (bytesOf s.ctx.C) s.ctx.L (Reference.pad (fun _ => 0) (portByte din) n.toNat)).2 ∧
    (∀ j : Fin 48, t.ctx.X[j] =
      Reference.permute (Reference.permute (bytesOf s.ctx.X) (Reference.pad (fun _ => 0) (portByte din) n.toNat))
        (bytesOf t.ctx.C) j) ∧
    t.phase = .FINALIZED ∧ t.fault = s.fault ∧ s.SameOutside t) ∧
  (∀ (n : BitVec 4) (din : Port) (s : State), s.phase = .FINALIZED → ∃ w : Byte, w.toNat = 0x30 + n.toNat ∧
    exec (.final n din) s = .next { s with fault := some ⟨.finalAfterFinal, w⟩ })

/-- R52, R84: FINAL does not read `din` bytes n..15: two samples that agree on bytes 0..n-1 give the same outcome in every
state. -/
def Obligations.FinalIgnoresBytesBeyondCount : Prop :=
  ∀ (n : BitVec 4) (d e : Port) (s : State), (∀ i, i < n.toNat → portByte d i = portByte e i) →
    exec (.final n d) s = exec (.final n e) s

/-- In phase FINALIZED, READ completes: byte `i` of `dout` is `X[i]`, and `C`, `L`, `X` and the phase are unchanged. In phase
OPEN it raises READ_BEFORE_FINAL, with `0x40` recorded, and changes nothing else. READ with `ARG ≠ 0` is reserved. All
that is R89's. The clause that READ adds the value to `reads`, and that nothing else changes, is the model's choice: the
field is the model's own, for the observation of R131 (log entry 9), and R89 says "State written: `dout` only". -/
def Obligations.ReadOutputsDigest : Prop :=
  (∀ s : State, s.phase = .FINALIZED → ∃ t, exec .read s = .next t ∧
    (∀ (i : Nat) (h : i < 16), t.dout.extractLsb' (8 * i) 8 = s.ctx.X[i]) ∧
    t.ctx = s.ctx ∧ t.phase = .FINALIZED ∧ t.fault = s.fault ∧ t.program = s.program ∧ t.k = s.k ∧
    t.laterRuns = s.laterRuns ∧ t.reads = s.reads ++ [t.dout]) ∧
  (∀ s : State, s.phase = .OPEN → exec .read s = .next { s with fault := some ⟨.readBeforeFinal, 0x40⟩ }) ∧
  (∀ (cmd : Byte) (din : Port), opc cmd = 0x4 → arg cmd ≠ 0 → decode cmd din = .illegal .argNonzero)

/-- R41, R90 (R90's first sentence quotes the source; that any number of READs write the same `dout` is an inference of the
spec, "[derived: from rule R89]"): a second READ writes the same `dout` and leaves the context as it was. -/
def Obligations.ReadIsIdempotent : Prop :=
  ∀ s : State, s.phase = .FINALIZED → ∃ t u, exec .read s = .next t ∧ exec .read t = .next u ∧
    u.dout = t.dout ∧ u.ctx = s.ctx ∧ u.phase = s.phase

/-- R91: `C`, `L` and `X[16..48]` reach no output port: two states that differ in nothing else have the same outputs after
any command, and the same fault record and phase. -/
def Obligations.OnlyLane0IsOutput : Prop :=
  ∀ (i : Instr) (s t : State), lane0 s.ctx.X = lane0 t.ctx.X → s = { t with ctx := s.ctx } →
    ∃ u v, exec i s = .next u ∧ exec i t = .next v ∧ u.dout = v.dout ∧ u.reads = v.reads ∧ u.fault = v.fault ∧
      u.phase = v.phase

/-- R94: INIT gives the context and the phase that reset gives, and unlike reset it leaves `fault` and `dout`. -/
def Obligations.InitGivesResetContext : Prop :=
  ∀ s : State, ∃ t, exec .init s = .next t ∧ t.ctx = State.reset.ctx ∧ t.phase = State.reset.phase ∧
    t.fault = s.fault ∧ t.dout = s.dout

/-- R99 (an inference of the spec): after INIT nothing of the earlier context is left: two states that differ in context and
phase alone become one state. -/
def Obligations.InitForgetsContext : Prop :=
  ∀ (s : State) (x : Context) (p : Phase), ∃ t, exec .init s = .next t ∧ exec .init { s with ctx := x, phase := p } = .next t

/-! ## Faults -/

/-- R101, R107: which fault a command raises, with no fault recorded before it: a reserved word raises ILLEGAL_COMMAND
whatever the phase; a legal one raises exactly its own phase fault, and only in the phase that forbids it. The record
holds the command word. -/
def Obligations.FaultCausesAndPriority : Prop :=
  ∀ (s : State) (c : Issue), s.nextIssue c → ∃ t, step s = .next t ∧
    (c.cmd ∉ legalWords → t.fault = some ⟨.illegalCommand, c.cmd⟩) ∧
    (c.cmd = 0x10 → t.fault = none) ∧
    (c.cmd = 0x20 → t.fault = if s.phase = .FINALIZED then some ⟨.absorbAfterFinal, c.cmd⟩ else none) ∧
    (0x30 ≤ c.cmd.toNat ∧ c.cmd.toNat ≤ 0x3f →
      t.fault = if s.phase = .FINALIZED then some ⟨.finalAfterFinal, c.cmd⟩ else none) ∧
    (c.cmd = 0x40 → t.fault = if s.phase = .OPEN then some ⟨.readBeforeFinal, c.cmd⟩ else none) ∧
    FaultCause.illegalCommand.code = 1 ∧ FaultCause.absorbAfterFinal.code = 2 ∧
    FaultCause.finalAfterFinal.code = 3 ∧ FaultCause.readBeforeFinal.code = 4

/-- R108: when a command faults, its record holds the command word and nothing else of the state has changed: `C`, `L`, `X`,
`phase`, `dout` and the host's index are as they were. -/
def Obligations.FaultEntryIsPrecise : Prop :=
  ∀ (s t : State) (c : Issue), s.nextIssue c → step s = .next t → t.fault ≠ none →
    ∃ cause, t = { s with fault := some ⟨cause, c.cmd⟩ }

/-- R109, with the model's choices of log entries 3 and 5: no command clears a recorded fault; a faulted state takes no step,
and what ends it is a reset, where the host has one to give. -/
def Obligations.FaultIsTerminal : Prop :=
  (∀ (i : Instr) (s t : State), exec i s = .next t → s.fault ≠ none → t.fault ≠ none) ∧
  (∀ (s : State) (r : FaultRecord), s.fault = some r →
    (s.laterRuns = [] → step s = .fault (.halted r)) ∧
    (∀ run later, s.laterRuns = run :: later → step s = .next (assertRst run later s)))

/-- R106, R109: the step never refuses, and it stops in one case only: a fault is recorded and the host gives no reset (the
outcome is the model's choice, log entry 3). -/
def Obligations.StepStopsOnlyWhenFaulted : Prop :=
  ∀ s : State, (∃ t, step s = .next t) ∨ (∃ r, s.fault = some r ∧ s.laterRuns = [] ∧ step s = .fault (.halted r))

/-! ## Sequencing and reset -/

/-- R95, R97, with the model's choice of log entry 3: with no fault recorded, a step decodes the next issue and runs its
command, and the host's index moves past the command if it completed and stays at it if it faulted. -/
def Obligations.StepRunsDecodedCommand : Prop :=
  ∀ (s : State) (c : Issue) (i : Instr), s.nextIssue c → decode c.cmd c.din = .command i →
    ∃ t, exec i s = .next t ∧
      (t.fault = none → step s = .next { t with k := s.k + 1 }) ∧ (t.fault ≠ none → step s = .next t)

/-- Log entry 6: a table row's word, stored by `withFetchWord` in any state, is what the next step runs. -/
def Obligations.StoredWordRunsNext : Prop :=
  ∀ (s : State) (nbits w : Nat) (i : Instr), decodeTableWord nbits w = some i →
    ∃ t, exec i (s.withFetchWord nbits w) = .next t ∧ step (s.withFetchWord nbits w) = .next (advance t)

/-- R97: a step from a state with no fault and a command at `k` moves the host's index by one if the command completed and
leaves it if it faulted, and does not change the host's sequences. From every other state the run has ended, and the two
cases are the model's choices and no words of R97: with no run to come a state with no fault holds (log entry 4), and with
a run to come the step starts that run's sequence at index 0 (log entry 5). -/
def Obligations.IndexAdvancesByOne : Prop :=
  ∀ s t : State, step s = .next t →
    (s.fault = none ∧ s.k < s.program.length ∧ t.program = s.program ∧ t.laterRuns = s.laterRuns ∧
      ((t.fault = none ∧ t.k = s.k + 1) ∨ (t.fault ≠ none ∧ t.k = s.k))) ∨
    (s.runEnded ∧ s.fault = none ∧ s.laterRuns = [] ∧ t = s) ∨
    (s.runEnded ∧ t.k = 0 ∧ s.laterRuns = t.program :: t.laterRuns)

/-- R16 to R18, R27, R30, R32: who writes what. A step that runs a command changes `C`, `L` or `X` only under INIT, ABSORB or
FINAL, `dout` only under READ, which also adds it to the observation (R131; the field `reads`, log entry 9), and `phase`
only to OPEN under INIT or to FINALIZED under FINAL. -/
def Obligations.WriteDiscipline : Prop :=
  ∀ (s t : State) (c : Issue), s.nextIssue c → step s = .next t →
    (t.ctx ≠ s.ctx → c.cmd = 0x10 ∨ c.cmd = 0x20 ∨ opc c.cmd = 0x3) ∧
    (t.dout ≠ s.dout → c.cmd = 0x40) ∧ (t.reads ≠ s.reads → c.cmd = 0x40 ∧ t.reads = s.reads ++ [t.dout]) ∧
    (t.phase ≠ s.phase → (c.cmd = 0x10 ∧ t.phase = .OPEN) ∨ (opc c.cmd = 0x3 ∧ t.phase = .FINALIZED)) ∧
    t.program = s.program ∧ t.laterRuns = s.laterRuns

/-- R33, R118: the state after reset, and the state that asserting `rst` gives in every state, a faulted one among them, hold
the reset value of every piece of state the spec gives one for. (`dout` has no value in the spec, and this statement says
none.) The second clause, that `rst` begins its run's sequence at index 0, is the model's choice (log entries 5 and 6):
R33 and R118 give no program and no index. -/
def Obligations.ResetValues : Prop :=
  (∀ t : State, (t = State.reset ∨ ∃ s run later, t = assertRst run later s) →
    (∀ j : Fin 16, t.ctx.C[j] = 0x00) ∧ t.ctx.L = 0x00 ∧ (∀ j : Fin 48, t.ctx.X[j] = 0x00) ∧
    t.phase = .OPEN ∧ t.fault = none) ∧
  (∀ (s : State) (run : List Issue) (later : List (List Issue)),
    (assertRst run later s).program = run ∧ (assertRst run later s).k = 0)

/-- R131, with the model's choices of log entries 4 and 5: when a run has ended, the next step starts the host's next run by
a reset; with none left, a state with no fault holds. -/
def Obligations.EndedRunResetsOrHolds : Prop :=
  ∀ s : State, s.runEnded →
    (∀ run later, s.laterRuns = run :: later → step s = .next (assertRst run later s)) ∧
    (s.laterRuns = [] → s.fault = none → step s = .next s)

/-! ## The invariant -/

/-- The state after reset meets the invariant. `L = C[15]` and the empty fault record follow from the reset values of R33. That
the index is within the sequence and the READs are no more than the commands rests on the model's chosen reset values,
`k = 0` with an empty sequence (log entry 6) and `reads` empty (log entry 9); with `reads` empty nothing is said of `dout`. -/
def Obligations.ResetMeetsInvariant : Prop := State.reset.Inv

/-- Every step keeps the invariant, from every state that meets it: `L = C[15]`; the host's index is within its sequence; at most
one READ per completed command; `dout` is what the last READ wrote; a recorded fault is one of R101's rows in the phase
it names. The first is an inference of the spec (41_block_transform.md R74, "After every CHECKSUM_UPDATE, `L = C[15]`
[derived: from rule R73]"). The two clauses about READs speak of `reads`, the model's own field, which a new run starts
empty by the model's choice (log entry 9); a new run's index 0 and its sequence are log entries 5 and 6. -/
def Obligations.StepKeepsInvariant : Prop := ∀ s t : State, s.Inv → step s = .next t → t.Inv

/-! ## Messages -/

/-- `ABSORBN k` with `16k` bytes encodes to `k` ABSORBs, number `i` with bytes `16i..16i+15` on `din` (R58). With any other
number of bytes it is refused: R57's "A wrong length is a syntax error, refused by the transcriber and never encoded",
which R57 says of `<block16>` and `<bytes_n>` and the model carries over to `<bytes_16k>` (log entry 12). -/
def Obligations.AbsorbNExpansion : Prop :=
  ∀ (k : Nat) (bytes : List Byte),
    (bytes.length ≠ 16 * k → assemble [.absorbN k bytes] = none) ∧
    (bytes.length = 16 * k → ∃ issues, assemble [.absorbN k bytes] = some issues ∧ issues.length = k ∧
      ∀ (i : Nat) (h : i < issues.length), issues[i].cmd = 0x20 ∧
        ∀ j, j < 16 → portByte issues[i].din j = bytes.getD (16 * i + j) 0)

/-- R56, R57: FINAL's line is refused unless `n` is 0 to 15 and its operand is `n` bytes, and then encodes to the word
`0x30 + n` with the bytes on `din` bytes 0..n-1; ABSORB's line is refused unless its operand is 16 bytes. -/
def Obligations.LinesEncodeOrAreRefused : Prop :=
  (∀ (n : Nat) (bytes : List Byte),
    (¬(n ≤ 15 ∧ bytes.length = n) → assemble [.final n bytes] = none) ∧
    (n ≤ 15 ∧ bytes.length = n → ∃ c, assemble [.final n bytes] = some [c] ∧ c.cmd.toNat = 0x30 + n ∧
      ∀ i, i < n → portByte c.din i = bytes.getD i 0)) ∧
  (∀ block : List Byte,
    (block.length ≠ 16 → assemble [.absorb block] = none) ∧
    (block.length = 16 → ∃ c, assemble [.absorb block] = some [c] ∧ c.cmd = 0x20 ∧
      ∀ i, i < 16 → portByte c.din i = block.getD i 0))

/-- R79: from every state with no fault in phase OPEN whose next issues are ABSORBN's, `k` steps apply the block transform
to the `k` blocks in message order, and change nothing else but the host's index. -/
def Obligations.AbsorbNRunsInOrder : Prop :=
  ∀ (bytes : List Byte) (k : Nat) (s : State) (rest : List Issue), bytes.length = 16 * k → s.fault = none →
    s.phase = .OPEN → s.program.drop s.k = absorbIssues k bytes ++ rest →
    runSteps k s = .next { s with ctx := absorbBlocks bytes k s.ctx, k := s.k + k }

/-- R92 (an inference of the spec, "[derived: from 41_block_transform.md rule R76, rules R81, R83 and R89, and
43_context_control.md rule R93]"): for every message `M`, from every state with no fault whose next issues are those of
`HASH M`, the commands all complete, and `dout` is MD2(`M`). That the value is also added to `reads` is the model's choice
(log entry 9). -/
def Obligations.HashComputesMd2 : Prop :=
  ∀ (M : List Byte) (s : State) (rest : List Issue), s.fault = none → s.program.drop s.k = hashIssues M ++ rest →
    runSteps (fullBlocks M + 3) s =
      .next { s with
        ctx := md2Context M
        phase := .FINALIZED
        dout := portOfBlock (md2 M)
        reads := s.reads ++ [portOfBlock (md2 M)]
        k := s.k + fullBlocks M + 3 }

/-! ## Several engines -/

/-- R44, R115: a step of engine `e` is a step of that engine's own state, and it changes no other engine, whether the other
one could step or has stopped. Steps of two different engines give the same platform in either order, and an engine that
has stopped is still stopped, for the same reason, after a step of another (R44's last sentence, "So commands to different
instances commute", is an inference of the spec). -/
def Obligations.EnginesAreIndependent : Prop :=
  ∀ (e : Nat) (p q : Platform), Platform.stepEngine e p = .next q →
    (∃ s t, p.engines[e]? = some s ∧ step s = .next t ∧ q.engines[e]? = some t) ∧
    q.engines.length = p.engines.length ∧
    (∀ f, f ≠ e → q.engines[f]? = p.engines[f]?) ∧
    (∀ f r, f ≠ e → Platform.stepEngine f p = .next r →
      ∃ u, Platform.stepEngine f q = .next u ∧ Platform.stepEngine e r = .next u) ∧
    (∀ f x, f ≠ e → Platform.stepEngine f p = .fault x → Platform.stepEngine f q = .fault x)
end

