-- ==== Sys2Proof/Laws/State.lean ====
section
/-! SUPPORT. What each update of State does to each field, and what each operation on bytes reads at an index: the lemmas
that later proofs use in place of unfolding the updates. -/

namespace Sys2Proof.Machine

/-! ## `raiseFault` -/
@[simp] theorem raiseFault_ctx (c : FaultCause) (w : Byte) (s : State) : (raiseFault c w s).ctx = s.ctx := rfl
@[simp] theorem raiseFault_phase (c : FaultCause) (w : Byte) (s : State) : (raiseFault c w s).phase = s.phase := rfl
@[simp] theorem raiseFault_fault (c : FaultCause) (w : Byte) (s : State) : (raiseFault c w s).fault = some ⟨c, w⟩ := rfl
@[simp] theorem raiseFault_dout (c : FaultCause) (w : Byte) (s : State) : (raiseFault c w s).dout = s.dout := rfl
@[simp] theorem raiseFault_program (c : FaultCause) (w : Byte) (s : State) : (raiseFault c w s).program = s.program := rfl
@[simp] theorem raiseFault_k (c : FaultCause) (w : Byte) (s : State) : (raiseFault c w s).k = s.k := rfl
@[simp] theorem raiseFault_reads (c : FaultCause) (w : Byte) (s : State) : (raiseFault c w s).reads = s.reads := rfl
@[simp] theorem raiseFault_laterRuns (c : FaultCause) (w : Byte) (s : State) : (raiseFault c w s).laterRuns = s.laterRuns := rfl

/-! ## `advance` -/

theorem advance_of_good {s : State} (h : s.fault = none) : advance s = { s with k := s.k + 1 } := if_pos h

theorem advance_of_faulted {s : State} (h : s.fault ≠ none) : advance s = s := if_neg h
@[simp] theorem advance_ctx (s : State) : (advance s).ctx = s.ctx := by unfold advance; split <;> rfl
@[simp] theorem advance_phase (s : State) : (advance s).phase = s.phase := by unfold advance; split <;> rfl
@[simp] theorem advance_fault (s : State) : (advance s).fault = s.fault := by unfold advance; split <;> rfl
@[simp] theorem advance_dout (s : State) : (advance s).dout = s.dout := by unfold advance; split <;> rfl
@[simp] theorem advance_program (s : State) : (advance s).program = s.program := by unfold advance; split <;> rfl
@[simp] theorem advance_reads (s : State) : (advance s).reads = s.reads := by unfold advance; split <;> rfl
@[simp] theorem advance_laterRuns (s : State) : (advance s).laterRuns = s.laterRuns := by unfold advance; split <;> rfl

/-! ## `assertRst` -/
@[simp] theorem assertRst_ctx (p : List Issue) (l : List (List Issue)) (s : State) : (assertRst p l s).ctx = Context.zero := rfl
@[simp] theorem assertRst_phase (p : List Issue) (l : List (List Issue)) (s : State) : (assertRst p l s).phase = .OPEN := rfl
@[simp] theorem assertRst_fault (p : List Issue) (l : List (List Issue)) (s : State) : (assertRst p l s).fault = none := rfl
@[simp] theorem assertRst_dout (p : List Issue) (l : List (List Issue)) (s : State) : (assertRst p l s).dout = State.reset.dout := rfl
@[simp] theorem assertRst_program (p : List Issue) (l : List (List Issue)) (s : State) : (assertRst p l s).program = p := rfl
@[simp] theorem assertRst_k (p : List Issue) (l : List (List Issue)) (s : State) : (assertRst p l s).k = 0 := rfl
@[simp] theorem assertRst_reads (p : List Issue) (l : List (List Issue)) (s : State) : (assertRst p l s).reads = [] := rfl
@[simp] theorem assertRst_laterRuns (p : List Issue) (l : List (List Issue)) (s : State) : (assertRst p l s).laterRuns = l := rfl

/-! ## `State.reset` -/
@[simp] theorem reset_ctx : State.reset.ctx = Context.zero := rfl
@[simp] theorem reset_phase : State.reset.phase = .OPEN := rfl
@[simp] theorem reset_fault : State.reset.fault = none := rfl
@[simp] theorem reset_program : State.reset.program = [] := rfl
@[simp] theorem reset_k : State.reset.k = 0 := rfl
@[simp] theorem reset_reads : State.reset.reads = [] := rfl
@[simp] theorem reset_laterRuns : State.reset.laterRuns = [] := rfl

/-! ## `loadIssue` -/
@[simp] theorem loadIssue_ctx (c : Issue) (s : State) : (loadIssue c s).ctx = s.ctx := rfl
@[simp] theorem loadIssue_phase (c : Issue) (s : State) : (loadIssue c s).phase = s.phase := rfl
@[simp] theorem loadIssue_fault (c : Issue) (s : State) : (loadIssue c s).fault = none := rfl
@[simp] theorem loadIssue_dout (c : Issue) (s : State) : (loadIssue c s).dout = s.dout := rfl
@[simp] theorem loadIssue_k (c : Issue) (s : State) : (loadIssue c s).k = s.k := rfl
@[simp] theorem loadIssue_reads (c : Issue) (s : State) : (loadIssue c s).reads = s.reads := rfl
@[simp] theorem loadIssue_laterRuns (c : Issue) (s : State) : (loadIssue c s).laterRuns = s.laterRuns := rfl

/-! ## `Context.zero` -/

@[simp] theorem zero_C (j : Fin 16) : Context.zero.C[j] = 0 := by simp [Context.zero]
@[simp] theorem zero_L : Context.zero.L = 0 := rfl
@[simp] theorem zero_X (j : Fin 48) : Context.zero.X[j] = 0 := by simp [Context.zero]

/-! ## Bytes of arrays -/

@[simp] theorem blockOfPort_getElem (din : Port) (i : Nat) (h : i < 16) : (blockOfPort din)[i] = portByte din i := by
  simp [blockOfPort]

@[simp] theorem lane0_getElem (X : MixState) (i : Nat) (h : i < 16) : (lane0 X)[i] = X[i] := by
  simp [lane0]

theorem loadLane1_getElem (X : MixState) (B : Block) (i : Nat) (h : i < 48) :
    (loadLane1 X B)[i] = if h' : 16 ≤ i ∧ i < 32 then B[i - 16] else X[i] := by
  simp [loadLane1]

theorem xorLane2_getElem (X : MixState) (i : Nat) (h : i < 48) :
    (xorLane2 X)[i] = if h' : 32 ≤ i then X[i - 32] ^^^ X[i - 16] else X[i] := by
  simp [xorLane2]

theorem pad_getElem (P : List Byte) (n i : Nat) (h : i < 16) :
    (pad P n)[i] = if i < n then P.getD i 0 else BitVec.ofNat 8 (16 - n) := by
  simp [pad, Config.blockBytes]

theorem leftoverCount_toNat (n : BitVec 4) : (leftoverCount n).toNat = n.toNat := by
  simp only [leftoverCount, BitVec.toNat_setWidth]
  omega

theorem leftoverBytes_getD (n : Nat) (din : Port) (i : Nat) (h : i < n) :
    (leftoverBytes n din).getD i 0 = portByte din i := by
  simp [leftoverBytes, h]

end Sys2Proof.Machine
end

