-- ==== Sys2Proof/Laws/Ops.lean ====
section
/-! SUPPORT. What each shared operation can do, said once: the phase check, one command, one issue, one step. -/

namespace Sys2Proof.Machine

/-- In the phase it requires a command has its effect, and otherwise it enters its fault. -/
theorem requirePhase_cases {p : Phase} {cause : FaultCause} {cmd : Byte} {body : State → State} {s t : State}
    (h : requirePhase p cause cmd body s = .next t) :
    (s.phase = p ∧ t = body s) ∨ (s.phase ≠ p ∧ t = raiseFault cause cmd s) := by
  unfold requirePhase at h
  split at h <;> cases h
  · exact .inl ⟨‹_›, rfl⟩
  · exact .inr ⟨‹_›, rfl⟩

theorem requirePhase_of_eq {p : Phase} {s : State} (h : s.phase = p) (cause : FaultCause) (cmd : Byte)
    (body : State → State) : requirePhase p cause cmd body s = .next (body s) := if_pos h

theorem requirePhase_of_ne {p : Phase} {s : State} (h : s.phase ≠ p) (cause : FaultCause) (cmd : Byte)
    (body : State → State) : requirePhase p cause cmd body s = .next (raiseFault cause cmd s) := if_neg h

/-- The state a command leaves: its effect in the phase it requires, else its fault. -/
def effect (i : Instr) (s : State) : State :=
  match i with
  | .init => { s with ctx := Context.zero, phase := .OPEN }
  | .absorb din =>
    if s.phase = .OPEN then { s with ctx := blockTransform (blockOfPort din) s.ctx }
    else raiseFault .absorbAfterFinal 0x20 s
  | .final n din =>
    if s.phase = .OPEN then { s with ctx := finalize (padBlock n din) s.ctx, phase := .FINALIZED }
    else raiseFault .finalAfterFinal ((0x3 : BitVec 4) ++ n) s
  | .read =>
    if s.phase = .FINALIZED then
      { s with dout := portOfBlock (lane0 s.ctx.X), reads := s.reads ++ [portOfBlock (lane0 s.ctx.X)] }
    else raiseFault .readBeforeFinal 0x40 s

/-- Every command answers a next state. -/
theorem exec_eq_effect (i : Instr) (s : State) : exec i s = .next (effect i s) := by
  cases i
  case init => rfl
  all_goals
    simp only [exec, execAbsorb, execFinal, execRead, requirePhase, effect, Instr.word]
    split <;> rfl

/-- R95, R107: an issue is a reserved word and faults, or is a command, and then `k` moves past it unless it faulted. -/
theorem runIssue_cases (c : Issue) (s : State) :
    (∃ why, decode c.cmd c.din = .illegal why ∧ runIssue c s = .next (raiseFault .illegalCommand c.cmd s)) ∨
    (∃ i, decode c.cmd c.din = .command i ∧ runIssue c s = .next (advance (effect i s))) := by
  cases h : decode c.cmd c.din with
  | command i => exact .inr ⟨i, rfl, by simp [runIssue, h, exec_eq_effect, thenAdvance]⟩
  | illegal why => exact .inl ⟨why, rfl, by simp [runIssue, h]⟩

/-- R95, R109, R131: the whole of what a step does. -/
theorem step_cases (s : State) :
    (∃ c, s.fault = none ∧ s.program[s.k]? = some c ∧ step s = runIssue c s) ∨
    ((s.fault ≠ none ∨ s.program.length ≤ s.k) ∧
      ((∃ run later, s.laterRuns = run :: later ∧ step s = .next (assertRst run later s)) ∨
       (∃ r, s.laterRuns = [] ∧ s.fault = some r ∧ step s = .fault (.halted r)) ∨
       (s.laterRuns = [] ∧ s.fault = none ∧ step s = .next s))) := by
  cases hf : s.fault with
  | none =>
    cases hp : s.program[s.k]? with
    | some c => exact .inl ⟨c, rfl, rfl, by simp [step, stepHost, hf, hp]⟩
    | none =>
      refine .inr ⟨.inr (by simpa using hp), ?_⟩
      cases hl : s.laterRuns with
      | nil => exact .inr (.inr ⟨rfl, rfl, by simp [step, stepHost, endOfRun, hf, hp, hl]⟩)
      | cons run later => exact .inl ⟨run, later, rfl, by simp [step, stepHost, endOfRun, hf, hp, hl]⟩
  | some r =>
    refine .inr ⟨.inl (by simp), ?_⟩
    cases hl : s.laterRuns with
    | nil => exact .inr (.inl ⟨r, rfl, rfl, by simp [step, stepHost, endOfRun, hf, hl]⟩)
    | cons run later => exact .inl ⟨run, later, rfl, by simp [step, stepHost, endOfRun, hf, hl]⟩

/-- With no fault recorded and a command at `k`, the step runs it. -/
theorem step_of_nextIssue {s : State} {c : Issue} (hf : s.fault = none) (hp : s.program[s.k]? = some c) :
    step s = runIssue c s := by
  simp [step, stepHost, hf, hp]

/-- The issue a loaded state runs next. -/
theorem loadIssue_program (c : Issue) (s : State) : (loadIssue c s).program[(loadIssue c s).k]? = some c := by
  have hk : (s.program.take s.k ++ List.replicate (s.k - s.program.length) (⟨0x10, 0⟩ : Issue)).length = s.k := by
    simp only [List.length_append, List.length_take, List.length_replicate]
    omega
  simp only [loadIssue]
  rw [List.getElem?_append_right (by omega), hk, Nat.sub_self]
  rfl

end Sys2Proof.Machine
end

