-- ==== Sys2Proof/Laws/PerInstr.lean ====
section
/-! SUPPORT. Statements made of every instruction, one lemma per constructor. -/

namespace Sys2Proof.Laws.LegalWord

open Sys2Proof.Machine

/-- R61: the word of an instruction is one of the 19 legal words. -/
def Statement (i : Instr) : Prop := (encode i).cmd ∈ legalWords

theorem init : Statement .init := (by decide : (0x10 : Byte) ∈ legalWords)

theorem absorb (din : Port) : Statement (.absorb din) := (by decide : (0x20 : Byte) ∈ legalWords)

theorem final (n : BitVec 4) (din : Port) : Statement (.final n din) := by
  have : ∀ n : BitVec 4, (0x3 : BitVec 4) ++ n ∈ legalWords := by decide
  exact this n

theorem read : Statement .read := (by decide : (0x40 : Byte) ∈ legalWords)

end Sys2Proof.Laws.LegalWord
end

