-- ==== Sys2Proof/Tests/Slice0.lean ====
section
/-! SUPPORT. Tests and witnesses. Expected results are those of 95_test_vectors.md (named V-… and P…) and of the rules cited;
a witness shows a state and operands that meet all the hypotheses of the statement it names. -/

namespace Sys2Proof.Tests

open Sys2Proof.Machine

/-! ## Builders -/

/-- The reset state in phase `p` with context `x`. -/
def stateAt (p : Phase) (x : Context) : State := { State.reset with phase := p, ctx := x }

/-- The state at `p` and `x` whose host issues `cmds` with `din`. -/
def issuing (p : Phase) (cmds : List Byte) : State :=
  { stateAt p Context.zero with program := cmds.map fun c => ⟨c, 0⟩ }

/-- The next state an outcome holds. -/
def nextOf : Host.Outcome State Fault Refusal → Option State
  | .next s => some s
  | .fault _ => none
  | .refused _ => none

/-- A port value with byte 0 first. -/
def port (bytes : List Byte) : Port := portOfBytes bytes

/-- What a next state shows of its context: `C`, `L` and lane 0. -/
def shown (o : Host.Outcome State Fault Refusal) : Option (Block × Byte × Block) :=
  (nextOf o).map fun s => (s.ctx.C, s.ctx.L, lane0 s.ctx.X)

/-! ## Decoding: words written out from R49 to R51 -/

theorem test_decode_init : decode 0b00010000 7 = .command .init := by decide
theorem test_decode_absorb : decode 0b00100000 7 = .command (.absorb 7) := by decide
theorem test_decode_final : decode 0b00110011 7 = .command (.final 3 7) := by decide
theorem test_decode_final_15 : decode 0b00111111 7 = .command (.final 15 7) := by decide
theorem test_decode_read : decode 0b01000000 7 = .command .read := by decide
theorem test_decode_idle_bus : decode 0x00 0 = .illegal .opcZero := by decide
theorem test_decode_unassigned : decode 0x50 0 = .illegal .opcUnassigned ∧ decode 0xff 0 = .illegal .opcUnassigned := by
  decide
theorem test_decode_arg_nonzero : decode 0x11 0 = .illegal .argNonzero ∧ decode 0x2f 0 = .illegal .argNonzero ∧
    decode 0x41 0 = .illegal .argNonzero := by decide
/-- R62. -/
theorem test_encode_absorb :
    encode (.absorb (port ("0123456789abcdef".toList.map fun c => BitVec.ofNat 8 c.toNat))) =
      ⟨0x20, 0x66656463626139383736353433323130⟩ := by decide
theorem test_encode_final : (encode (.final 3 0)).cmd = 0x33 := by decide
theorem test_table_words : decodeTableWord 8 0x10 = some .init ∧ decodeTableWord 8 0x20 = some (.absorb 0) ∧
    decodeTableWord 8 0x30 = some (.final 0 0) ∧ decodeTableWord 8 0x40 = some .read ∧ decodeTableWord 8 0x41 = none := by
  decide

/-! ## Well-formedness: each check refuses an ill-formed line (R57, R58) -/

theorem test_wf_absorb_short : Asm.wf (.absorb (List.replicate 15 0)) = false := by decide
theorem test_wf_final_count : Asm.wf (.final 16 (List.replicate 16 0)) = false := by decide
theorem test_wf_final_bytes : Asm.wf (.final 3 [0, 0]) = false := by decide
theorem test_wf_absorbN_bytes : Asm.wf (.absorbN 2 (List.replicate 31 0)) = false := by decide
theorem test_wf_accepts : Asm.wf (.absorb (List.replicate 16 0)) ∧ Asm.wf (.final 15 (List.replicate 15 0)) ∧
    Asm.wf (.absorbN 0 []) ∧ Asm.wf (.hash [0x61]) := by decide

/-! ## Identity constants and parameters (R2, R7, V-L5) -/

theorem test_digestInfo_oid : (Config.digestInfoPrefix.drop 6).take 8 = [0x2a, 0x86, 0x48, 0x86, 0xf7, 0x0d, 0x02, 0x02] ∧
    Config.digestInfoPrefix.length = 18 := by decide
theorem test_table_size : (sRows.map List.length).sum = Config.tableEntries := by decide

/-! ## The table (R26) and the functions -/

theorem test_table_entries : [0x00, 0x01, 0x0f, 0x10, 0x80, 0xdd, 0xfe, 0xff].map S =
    [0x29, 0x2e, 0x13, 0x62, 0x45, 0x00, 0x83, 0x14] := by decide

/-- R37's example. -/
theorem test_port_packing : portOfBlock (pad [0x61, 0x62, 0x63] 3) = 0x0d0d0d0d0d0d0d0d0d0d0d0d0d636261 := by decide

/-- V-PD1, V-PD4. -/
theorem test_pad_empty : pad [] 0 = Vector.replicate 16 0x10 := by decide
theorem test_pad_15 : (padBlock 15 (port (List.replicate 16 0x61))).toList = List.replicate 15 0x61 ++ [0x01] := by decide

/-- V-P1, all 48 bytes. -/
theorem test_permute_zero : (permute (Vector.replicate 48 0) (Vector.replicate 16 0)).toList =
    [0x31, 0x81, 0x7b, 0x3b, 0xc7, 0x7d, 0x83, 0x57, 0x97, 0x31, 0x3d, 0x52, 0x6e, 0x88, 0xb8, 0x63] ++
    [0xd0, 0xb5, 0x18, 0x77, 0xca, 0x92, 0x30, 0x1b, 0x47, 0x6b, 0x2f, 0x10, 0xd6, 0xdb, 0xd1, 0xe3] ++
    [0x07, 0x89, 0xe4, 0x2c, 0x12, 0x67, 0x28, 0x6d, 0x57, 0x47, 0xac, 0xf0, 0xf2, 0x94, 0xcc, 0x55] := by
  decide +kernel

/-- V-P1's trace: round 8 ends with `t_end = 0xff`, and adding 8 wraps to `0x07`. -/
theorem test_round_wrap : (rounds 9 (Vector.replicate 48 0)).t = 0x07 := by decide +kernel

/-- V-P3: the block equals lane 0. -/
theorem test_permute_ff : lane0 (permute (Vector.replicate 48 0xff) (Vector.replicate 16 0xff)) =
    #v[0xba, 0xb5, 0x9b, 0xda, 0x21, 0x27, 0xb4, 0x46, 0xa5, 0xef, 0x89, 0x6b, 0xc7, 0xdf, 0x2d, 0xff] := by
  decide +kernel

/-- V-C4: a nonzero checksum and carry. -/
theorem test_checksum_ff : checksumUpdate (Vector.replicate 16 0xff) 0xff (Vector.replicate 16 0xff) =
    #v[0xd6, 0xbd, 0x86, 0x03, 0x60, 0xf0, 0xec, 0x0c, 0x4b, 0x7a, 0x8e, 0x47, 0x2c, 0x74, 0x9a, 0x5a] := by
  decide +kernel

/-- V-C5: the fixed point of the carry. -/
theorem test_checksum_fixed_point : checksumUpdate (Vector.replicate 16 0) 0x29 (Vector.replicate 16 0x29) =
    Vector.replicate 16 0x29 := by decide +kernel

/-- V-L1, V-L2, V-L3: the source's three digests, which between them read every entry of `S`. -/
theorem test_md2_empty : md2 [] =
    #v[0x83, 0x50, 0xe5, 0xa3, 0xe2, 0x4c, 0x15, 0x3d, 0xf2, 0x27, 0x5c, 0x9f, 0x80, 0x69, 0x27, 0x73] := by
  decide +kernel
theorem test_md2_a : md2 [0x61] =
    #v[0x32, 0xec, 0x01, 0xec, 0x4a, 0x6d, 0xac, 0x72, 0xc0, 0xab, 0x96, 0xfb, 0x34, 0xc0, 0xb5, 0xd1] := by
  decide +kernel
theorem test_md2_abc : md2 [0x61, 0x62, 0x63] =
    #v[0xda, 0x85, 0x3b, 0x0d, 0x3f, 0x88, 0xd9, 0x9b, 0x30, 0x28, 0x3a, 0x69, 0xe6, 0xde, 0xd6, 0xbb] := by
  decide +kernel

/-! ## The commands, one step each -/

/-- A context that holds no zero, to see INIT clear it. -/
def onesContext : Context := ⟨Vector.replicate 16 1, 1, Vector.replicate 48 1⟩

/-- V-I1. -/
theorem test_init : nextOf (exec .init (stateAt .FINALIZED onesContext)) = some (stateAt .OPEN Context.zero) := by decide

/-- V-A2. -/
theorem test_absorb : shown (exec (.absorb (port (List.replicate 16 0x61))) State.reset) = some
    (#v[0x19, 0x76, 0x8c, 0x75, 0xc0, 0x47, 0xe0, 0x9d, 0x9f, 0x83, 0xb7, 0xe8, 0x5b, 0xf5, 0xae, 0x4a], 0x4a,
     #v[0x46, 0x68, 0xbf, 0x9c, 0x14, 0xcd, 0x74, 0xb4, 0xe1, 0x73, 0xf9, 0xd5, 0xfe, 0x09, 0x27, 0xe0]) := by
  decide +kernel

/-- V-A3's second ABSORB, where the checksum is not zero: XOR into `C`, not overwriting it. -/
theorem test_absorb_again : shown (exec (.absorb 0) (stateAt .OPEN
      ⟨#v[0x29, 0x42, 0x79, 0xfc, 0x9f, 0x0f, 0x13, 0xf3, 0xb4, 0x85, 0x71, 0xb8, 0xd3, 0x8b, 0x65, 0xa5], 0xa5,
       permute (Vector.replicate 48 0) (Vector.replicate 16 0)⟩)) = some
    (#v[0x78, 0x34, 0xa3, 0xdf, 0xa6, 0xa0, 0x46, 0xf4, 0x3b, 0x0b, 0xd0, 0xc0, 0xb9, 0x54, 0x3f, 0xdf], 0xdf,
     #v[0x38, 0xab, 0x84, 0x92, 0xa9, 0xec, 0x2f, 0x28, 0x62, 0x1a, 0x79, 0x1c, 0x39, 0x13, 0x67, 0x6c]) := by
  decide +kernel

/-- V-F1: FINAL 0, the fold leaving `C` and `L`; the sample of `din` is not read. -/
theorem test_final_0 : shown (exec (.final 0 (BitVec.allOnes 128)) State.reset) = some
    (#v[0x62, 0x38, 0x67, 0xb6, 0xaf, 0x52, 0x79, 0x5e, 0x5f, 0x21, 0x4e, 0x97, 0x20, 0xbe, 0xea, 0x8d], 0x8d,
     #v[0x83, 0x50, 0xe5, 0xa3, 0xe2, 0x4c, 0x15, 0x3d, 0xf2, 0x27, 0x5c, 0x9f, 0x80, 0x69, 0x27, 0x73]) := by
  decide +kernel

/-- V-F4: FINAL 15, with a byte 15 of `din` that is not read. -/
theorem test_final_15 : shown (exec (.final 15 (port (List.replicate 16 0x61))) State.reset) = some
    (#v[0x19, 0x76, 0x8c, 0x75, 0xc0, 0x47, 0xe0, 0x9d, 0x9f, 0x83, 0xb7, 0xe8, 0x5b, 0xf5, 0xae, 0x26], 0x26,
     #v[0xa1, 0x37, 0x9a, 0x10, 0x27, 0xd0, 0xd2, 0x9a, 0xf9, 0x82, 0x00, 0x79, 0x9b, 0x8d, 0x5d, 0x8e]) := by
  decide +kernel

/-- V-R1: the digest of the empty message on `dout`. -/
theorem test_read : (nextOf (exec .read (stateAt .FINALIZED (md2Context [])))).map (·.dout) =
    some 0x732769809f5c27f23d154ce2a3e55083 := by decide +kernel

/-! ## Faults, one step each -/

/-- V-A6. -/
theorem test_absorb_after_final : nextOf (step (issuing .FINALIZED [0x20])) =
    some { issuing .FINALIZED [0x20] with fault := some ⟨.absorbAfterFinal, 0x20⟩ } := by decide
/-- V-F6, with `n = 15`. -/
theorem test_final_after_final : nextOf (step (issuing .FINALIZED [0x3f])) =
    some { issuing .FINALIZED [0x3f] with fault := some ⟨.finalAfterFinal, 0x3f⟩ } := by decide
/-- V-R2. -/
theorem test_read_before_final : nextOf (step (issuing .OPEN [0x40])) =
    some { issuing .OPEN [0x40] with fault := some ⟨.readBeforeFinal, 0x40⟩ } := by decide
/-- R107's example: a reserved word in phase FINALIZED. -/
theorem test_illegal_first : nextOf (step (issuing .FINALIZED [0x21])) =
    some { issuing .FINALIZED [0x21] with fault := some ⟨.illegalCommand, 0x21⟩ } := by decide
/-- R109. -/
theorem test_halted : nextOf (step { issuing .OPEN [0x10] with fault := some ⟨.illegalCommand, 0x41⟩ }) = none := by decide

/-! ## Sequencing -/

theorem test_step_advances : nextOf (step (issuing .OPEN [0x10, 0x40])) = some { issuing .OPEN [0x10, 0x40] with k := 1 } := by
  decide
theorem test_idle_holds : nextOf (step State.reset) = some State.reset := by decide
theorem test_stored_word_runs : (nextOf (step (State.reset.withFetchWord 8 0x3f))).map (fun s => (s.phase, s.k)) =
    some (.FINALIZED, 1) := by decide +kernel
theorem test_new_run : nextOf (step { State.reset with
      fault := some ⟨.illegalCommand, 0x41⟩, ctx := onesContext, phase := .FINALIZED, laterRuns := [[⟨0x10, 0⟩]] }) =
    some { State.reset with program := [⟨0x10, 0⟩] } := by decide

/-! ## The assembler (R56 to R59, P2, P6) -/

theorem test_asm_final : assembleText "  final 3, \"abc\"  ; the message" = some [⟨0x33, 0x636261⟩] := by decide
theorem test_asm_hex : assembleText "ABSORB 0x6162630d0d0d0d0d0D0D0D0D0D0D0D0D" =
    some [⟨0x20, 0x0d0d0d0d0d0d0d0d0d0d0d0d0d636261⟩] := by decide +kernel
theorem test_asm_hash_empty : assembleText "HASH \"\"" = some [⟨0x10, 0⟩, ⟨0x30, 0⟩, ⟨0x40, 0⟩] := by decide
theorem test_asm_lines : assembleText "INIT\n; a comment\n\nFINAL 0\nREAD" = some [⟨0x10, 0⟩, ⟨0x30, 0⟩, ⟨0x40, 0⟩] := by
  decide
/-- Log entry 12: a blank may be a carriage return, and one bad line refuses the text. -/
theorem test_asm_choices : assembleText "FINAL\r0\r\nREAD\r" = some [⟨0x30, 0⟩, ⟨0x40, 0⟩] ∧
    assembleText "INIT\nABSORB \"short\"\nREAD" = none := by decide +kernel
theorem test_asm_word : assembleText ".word 0x41" = some [⟨0x41, 0⟩] := by decide
theorem test_asm_absorbN : (assembleText "ABSORBN 2, \"0123456789abcdefghijklmnopqrstuv\"").map (List.map (·.din)) =
    some [0x66656463626139383736353433323130, 0x767574737271706f6e6d6c6b6a696867] := by decide +kernel
theorem test_asm_refuses : assembleText "FINAL 16, \"0123456789abcdef\"" = none ∧ assembleText "ABSORB \"short\"" = none ∧
    assembleText "FINAL 0, 0x" = none ∧ assembleText "STOP" = none ∧ assembleText "INIT READ" = none := by
  decide +kernel

/-! ## Witnesses: the hypotheses of each statement can be met -/

theorem witness_OpcodeAssignment : opc 0x00 ∉ [0x1, 0x2, 0x3, 0x4] ∧ opc 0x50 ∉ [0x1, 0x2, 0x3, 0x4] := by decide

theorem witness_DecodeEncodeAgree : decode 0x3f 5 = .command (.final 15 5) := by decide

theorem witness_ReservedWords : (issuing .OPEN [0x0f]).nextIssue ⟨0x0f, 0⟩ ∧ decode 0x0f 0 = .illegal .opcZero ∧
    (issuing .FINALIZED [0x50]).nextIssue ⟨0x50, 0⟩ ∧ decode 0x50 0 = .illegal .opcUnassigned ∧
    (issuing .OPEN [0x4f]).nextIssue ⟨0x4f, 0⟩ ∧ decode 0x4f 0 = .illegal .argNonzero := by decide

/-- LaneLoadAndXor, InnerPassSteps and ChecksumCarryChain: the last index of each. -/
theorem witness_last_index : 15 < 16 ∧ 46 < 47 ∧ 14 < 15 := by decide

/-- ResetValues: both states its premise names. -/
theorem witness_ResetValues (s : State) : State.reset = State.reset ∧ ∃ u run later, assertRst [] [] s = assertRst run later u :=
  ⟨rfl, s, [], [], rfl⟩

theorem witness_PermuteReadsOnlyLane0 : lane0 (Vector.replicate 48 0) = lane0 ((Vector.replicate 48 0).set 16 (1 : Byte)) ∧
    (Vector.replicate 48 0 : MixState) ≠ (Vector.replicate 48 0).set 16 1 := by decide

/-- An aligned message, the empty one, and a phase in which FINAL 0 runs. -/
theorem witness_AlignedMessage : ([] : List Byte).length % 16 = 0 ∧ (List.replicate 16 (0 : Byte)).length % 16 = 0 ∧
    State.reset.phase = .OPEN := by decide

/-- The two clauses of PAD at their boundary: the last leftover byte and the first pad byte. -/
theorem witness_PadFills : (14 : Fin 16).val < (15 : BitVec 4).toNat ∧ (15 : BitVec 4).toNat ≤ (15 : Fin 16).val ∧
    (0 : BitVec 4).toNat ≤ (0 : Fin 16).val := by decide

/-- For InitZeroesContext, AbsorbTransformsBlock and ReadOutputsDigest: reserved words at both ends of their ranges. -/
theorem witness_arg_nonzero : opc 0x11 = 0x1 ∧ arg 0x11 ≠ 0 ∧ opc 0x1f = 0x1 ∧ arg 0x1f ≠ 0 ∧
    opc 0x21 = 0x2 ∧ arg 0x21 ≠ 0 ∧ opc 0x2f = 0x2 ∧ arg 0x2f ≠ 0 ∧
    opc 0x41 = 0x4 ∧ arg 0x41 ≠ 0 ∧ opc 0x4f = 0x4 ∧ arg 0x4f ≠ 0 := by decide

/-- For AbsorbTransformsBlock, FinalPadsAbsorbsAndFolds, ReadOutputsDigest and ReadIsIdempotent: both phases. -/
theorem witness_phases : State.reset.phase = .OPEN ∧ (stateAt .FINALIZED onesContext).phase = .FINALIZED := by decide

theorem witness_FinalIgnores : (∀ i, i < (15 : BitVec 4).toNat →
      portByte (port (List.replicate 15 1)) i = portByte (port (List.replicate 16 1)) i) ∧
    port (List.replicate 15 1) ≠ port (List.replicate 16 1) := by decide

theorem witness_OnlyLane0 :
    lane0 (stateAt .FINALIZED Context.zero).ctx.X =
      lane0 (stateAt .FINALIZED ⟨Vector.replicate 16 1, 1, (Vector.replicate 48 0).set 47 1⟩).ctx.X ∧
    stateAt .FINALIZED Context.zero =
      { stateAt .FINALIZED ⟨Vector.replicate 16 1, 1, (Vector.replicate 48 0).set 47 1⟩ with
        ctx := (stateAt .FINALIZED Context.zero).ctx } := by decide

/-- FaultCausesAndPriority: a word of each clause, with FINAL's at both ends of its range. -/
theorem witness_FaultCauses : (issuing .OPEN [0x4f]).nextIssue ⟨0x4f, 0⟩ ∧ (0x4f : Byte) ∉ legalWords ∧
    (issuing .OPEN [0x10]).nextIssue ⟨0x10, 0⟩ ∧ (issuing .FINALIZED [0x20]).nextIssue ⟨0x20, 0⟩ ∧
    (issuing .FINALIZED [0x30]).nextIssue ⟨0x30, 0⟩ ∧ (issuing .OPEN [0x3f]).nextIssue ⟨0x3f, 0⟩ ∧
    (issuing .OPEN [0x40]).nextIssue ⟨0x40, 0⟩ := by decide

theorem witness_FaultEntryIsPrecise : (issuing .OPEN [0x40]).nextIssue ⟨0x40, 0⟩ ∧
    ((nextOf (step (issuing .OPEN [0x40]))).map fun t => decide (t.fault ≠ none)) = some true := by decide

/-- FaultIsTerminal: a faulted state without and with a run to come, and a command run on it. -/
theorem witness_FaultIsTerminal :
    { State.reset with fault := some ⟨.illegalCommand, 0 ⟩ }.laterRuns = [] ∧
    { State.reset with fault := some ⟨.illegalCommand, 0⟩, laterRuns := [[]] }.laterRuns = [] :: [] ∧
    exec .init { State.reset with fault := some ⟨.illegalCommand, 0⟩ } =
      .next { State.reset with fault := some ⟨.illegalCommand, 0⟩ } := ⟨rfl, rfl, rfl⟩

theorem witness_StepRunsDecodedCommand : (issuing .OPEN [0x3f]).nextIssue ⟨0x3f, 0⟩ ∧
    decode 0x3f 0 = .command (.final 15 0) ∧ (issuing .FINALIZED [0x3f]).nextIssue ⟨0x3f, 0⟩ := by decide

theorem witness_StoredWordRunsNext : decodeTableWord 8 0x30 = some (.final 0 0) ∧
    decodeTableWord 8 0x3f = some (.final 15 0) := by decide

/-- IndexAdvancesByOne: the last command of a sequence completing and faulting, a state that holds, and a new run. -/
theorem witness_IndexAdvances : (nextOf (step (issuing .OPEN [0x10]))).map (·.k) = some 1 ∧
    (nextOf (step (issuing .OPEN [0x40]))).map (·.k) = some 0 ∧
    nextOf (step { issuing .OPEN [0x10] with k := 1 }) = some { issuing .OPEN [0x10] with k := 1 } ∧
    (nextOf (step { issuing .OPEN [0x10] with k := 1, laterRuns := [[]] })).map (·.k) = some 0 := by decide

/-- WriteDiscipline: a command that changes the phase and one that changes the context. -/
theorem witness_WriteDiscipline : (issuing .FINALIZED [0x10]).nextIssue ⟨0x10, 0⟩ ∧
    (nextOf (step (issuing .FINALIZED [0x10]))).map (·.phase) = some .OPEN ∧
    (issuing .FINALIZED [0x40]).nextIssue ⟨0x40, 0⟩ ∧
    (nextOf (step { issuing .FINALIZED [0x40] with dout := 1 })).map (·.dout) = some 0 := by decide

/-- EndedRunResetsOrHolds: an exhausted run and a faulted one, with and without a run to come. -/
theorem witness_EndedRun : State.reset.runEnded ∧ State.reset.laterRuns = [] ∧ State.reset.fault = none ∧
    { State.reset with laterRuns := [[]] }.runEnded ∧
    { issuing .OPEN [0x10] with fault := some ⟨.illegalCommand, 0⟩ }.runEnded := by decide

/-- StepKeepsInvariant: a state that meets the invariant and steps. -/
theorem witness_StepKeepsInvariant : (issuing .OPEN [0x10]).Inv ∧
    step (issuing .OPEN [0x10]) = .next { issuing .OPEN [0x10] with k := 1 } :=
  ⟨⟨by decide, by decide, by decide, by simp [issuing, stateAt, State.reset], by simp [issuing, stateAt, State.reset]⟩, rfl⟩

theorem witness_AbsorbNExpansion : (List.replicate 32 (0 : Byte)).length = 16 * 2 ∧ ([] : List Byte).length = 16 * 0 ∧
    (List.replicate 31 (0 : Byte)).length ≠ 16 * 2 := by decide

theorem witness_LinesEncode : (15 ≤ 15 ∧ (List.replicate 15 (0 : Byte)).length = 15) ∧
    (0 ≤ 15 ∧ ([] : List Byte).length = 0) ∧ ¬(16 ≤ 15 ∧ (List.replicate 16 (0 : Byte)).length = 16) ∧
    (List.replicate 16 (0 : Byte)).length = 16 ∧ (List.replicate 15 (0 : Byte)).length ≠ 16 := by decide

theorem witness_AbsorbNRunsInOrder : (List.replicate 16 (0 : Byte)).length = 16 * 1 ∧
    (issuing .OPEN [0x20, 0x40]).fault = none ∧ (issuing .OPEN [0x20, 0x40]).phase = .OPEN ∧
    (issuing .OPEN [0x20, 0x40]).program.drop 0 = absorbIssues 1 (List.replicate 16 0) ++ [⟨0x40, 0⟩] := by decide

theorem witness_HashComputesMd2 : (issuing .FINALIZED [0x10, 0x20, 0x30, 0x40, 0x10]).fault = none ∧
    (issuing .FINALIZED [0x10, 0x20, 0x30, 0x40, 0x10]).program.drop 0 =
      hashIssues (List.replicate 16 0) ++ [⟨0x10, 0⟩] := by decide

/-- EnginesAreIndependent: engine 0 steps beside one that steps and one that has stopped. -/
theorem witness_EnginesAreIndependent :
    Platform.stepEngine 0 ⟨[issuing .OPEN [0x10], issuing .OPEN [0x40]]⟩ =
      .next ⟨[{ issuing .OPEN [0x10] with k := 1 }, issuing .OPEN [0x40]]⟩ ∧
    Platform.stepEngine 1 ⟨[issuing .OPEN [0x10], issuing .OPEN [0x40]]⟩ =
      .next ⟨[issuing .OPEN [0x10], { issuing .OPEN [0x40] with fault := some ⟨.readBeforeFinal, 0x40⟩ }]⟩ ∧
    Platform.stepEngine 0 ⟨[issuing .OPEN [0x10], { State.reset with fault := some ⟨.illegalCommand, 0x41⟩ }]⟩ =
      .next ⟨[{ issuing .OPEN [0x10] with k := 1 }, { State.reset with fault := some ⟨.illegalCommand, 0x41⟩ }]⟩ ∧
    Platform.stepEngine 1 ⟨[issuing .OPEN [0x10], { State.reset with fault := some ⟨.illegalCommand, 0x41⟩ }]⟩ =
      .fault (.halted ⟨.illegalCommand, 0x41⟩) :=
  ⟨rfl, rfl, rfl, rfl⟩

end Sys2Proof.Tests
end

/-! # The family 10_state: who writes what, the index, the table, reset and the invariant -/

namespace Sys2Proof

/-! ## What decoding a word says of the word -/

/-- R49: a command word is its two fields. -/
theorem opc_append_arg (w : Byte) : opc w ++ arg w = w :=
  (BitVec.extractLsb'_append_extractLsb'_eq_extractLsb' (x := w) rfl).trans BitVec.extractLsb'_eq_self

theorem eq_of_fields {w : Byte} {o a : BitVec 4} (ho : opc w = o) (ha : arg w = a) : w = o ++ a := by
  rw [← ho, ← ha, opc_append_arg]

theorem whenArgZero_eq_command {a : BitVec 4} {i j : Instr} :
    whenArgZero a i = .command j ↔ a = 0 ∧ i = j := by
  unfold whenArgZero
  split <;> simp_all

theorem whenArgZero_eq_illegal {a : BitVec 4} {i : Instr} {why : Reserved} :
    whenArgZero a i = .illegal why ↔ a ≠ 0 ∧ .argNonzero = why := by
  unfold whenArgZero
  split <;> simp_all

/-- R50 to R52: the words that decode to a command, and the operands they take. -/
theorem decode_command_cases {w : Byte} {din : Port} {i : Instr} (h : decode w din = .command i) :
    (w = 0x10 ∧ i = .init) ∨ (w = 0x20 ∧ i = .absorb din) ∨ (opc w = 0x3 ∧ i = .final (arg w) din) ∨
      (w = 0x40 ∧ i = .read) := by
  unfold decode at h
  split_ifs at h with ho ho ho ho
  · obtain ⟨ha, rfl⟩ := whenArgZero_eq_command.mp h
    exact .inl ⟨eq_of_fields ho ha, rfl⟩
  · obtain ⟨ha, rfl⟩ := whenArgZero_eq_command.mp h
    exact .inr (.inl ⟨eq_of_fields ho ha, rfl⟩)
  · cases h
    exact .inr (.inr (.inl ⟨ho, rfl⟩))
  · obtain ⟨ha, rfl⟩ := whenArgZero_eq_command.mp h
    exact .inr (.inr (.inr ⟨eq_of_fields ho ha, rfl⟩))

/-- R53, R54: whether a word is reserved, and why, does not depend on `din`. -/
theorem decode_illegal_any_din {w : Byte} {din : Port} {why : Reserved} (h : decode w din = .illegal why)
    (din' : Port) : decode w din' = .illegal why := by
  unfold decode at h ⊢
  split_ifs at h ⊢
  · exact h
  · exact whenArgZero_eq_illegal.mpr (whenArgZero_eq_illegal.mp h)
  all_goals exact h

end Sys2Proof

namespace Sys2Proof.Machine

/-! ## What a step can do -/

/-- What running the issue `c` with no fault recorded can do: the command enters a fault of R101, or it completes with its
effect and `k` moves past it (R97). -/
inductive Runs (s : State) (c : Issue) : State → Prop
  | faulted (cause : FaultCause) (fits : FaultRecord.Fits ⟨cause, c.cmd⟩ s.phase) : Runs s c (raiseFault cause c.cmd s)
  | init (word : c.cmd = 0x10) : Runs s c { s with ctx := Context.zero, phase := .OPEN, k := s.k + 1 }
  | absorb (word : c.cmd = 0x20) (phase : s.phase = .OPEN) :
      Runs s c { s with ctx := blockTransform (blockOfPort c.din) s.ctx, k := s.k + 1 }
  | final (word : opc c.cmd = 0x3) (phase : s.phase = .OPEN) :
      Runs s c { s with ctx := finalize (padBlock (arg c.cmd) c.din) s.ctx, phase := .FINALIZED, k := s.k + 1 }
  | read (word : c.cmd = 0x40) (phase : s.phase = .FINALIZED) :
      Runs s c { s with
        dout := portOfBlock (lane0 s.ctx.X)
        reads := s.reads ++ [portOfBlock (lane0 s.ctx.X)]
        k := s.k + 1 }

theorem Phase.ne_open_iff {p : Phase} : p ≠ .OPEN ↔ p = .FINALIZED := by cases p <;> simp

theorem Phase.ne_finalized_iff {p : Phase} : p ≠ .FINALIZED ↔ p = .OPEN := by cases p <;> simp

/-- A decoded command, from a state with no fault, is one of the runs of `Runs`. -/
theorem runs_of_decode {s : State} {c : Issue} {i : Instr} (hf : s.fault = none)
    (hd : decode c.cmd c.din = .command i) : Runs s c (advance (effect i s)) := by
  obtain ⟨hw, rfl⟩ | ⟨hw, rfl⟩ | ⟨hw, rfl⟩ | ⟨hw, rfl⟩ := decode_command_cases hd
  · rw [effect, advance_of_good]
    exacts [.init hw, hf]
  · by_cases hp : s.phase = .OPEN
    · rw [effect, if_pos hp, advance_of_good]
      exacts [.absorb hw hp, hf]
    · rw [effect, if_neg hp, advance_of_faulted (by simp), ← hw]
      exact .faulted _ ⟨hw, Phase.ne_open_iff.mp hp⟩
  · by_cases hp : s.phase = .OPEN
    · rw [effect, if_pos hp, advance_of_good]
      exacts [.final hw hp, hf]
    · rw [effect, if_neg hp, advance_of_faulted (by simp), ← hw, opc_append_arg]
      exact .faulted _ ⟨hw, Phase.ne_open_iff.mp hp⟩
  · by_cases hp : s.phase = .FINALIZED
    · rw [effect, if_pos hp, advance_of_good]
      · dsimp only
        exact .read hw hp
      · exact hf
    · rw [effect, if_neg hp, advance_of_faulted (by simp), ← hw]
      exact .faulted _ ⟨hw, Phase.ne_finalized_iff.mp hp⟩

/-- R95, R107: a step that runs an issue is one of the runs of `Runs`. -/
theorem runs_of_step {s t : State} {c : Issue} (hn : s.nextIssue c) (h : step s = .next t) : Runs s c t := by
  rw [step_of_nextIssue hn.1 hn.2] at h
  obtain ⟨why, hd, hr⟩ | ⟨i, hd, hr⟩ := runIssue_cases c s <;> cases hr.symm.trans h
  · exact .faulted _ ⟨why, decode_illegal_any_din hd⟩
  · exact runs_of_decode hn.1 hd

/-- R95, R118, R131: a step that answers a next state runs the issue at `k`, or its run has ended and it starts the host's
next run, or holds where there is none. -/
theorem step_next_cases {s t : State} (h : step s = .next t) :
    (∃ c, s.nextIssue c ∧ Runs s c t) ∨
    (s.runEnded ∧ ∃ run later, s.laterRuns = run :: later ∧ t = assertRst run later s) ∨
    (s.runEnded ∧ s.laterRuns = [] ∧ s.fault = none ∧ t = s) := by
  obtain ⟨c, hf, hp, -⟩ | ⟨he, hrst | hhalt | hhold⟩ := step_cases s
  · exact .inl ⟨c, ⟨hf, hp⟩, runs_of_step ⟨hf, hp⟩ h⟩
  · obtain ⟨run, later, hl, hs⟩ := hrst
    cases hs.symm.trans h
    exact .inr (.inl ⟨he.symm, run, later, hl, rfl⟩)
  · obtain ⟨r, -, -, hs⟩ := hhalt
    cases hs.symm.trans h
  · obtain ⟨hl, hf, hs⟩ := hhold
    cases hs.symm.trans h
    exact .inr (.inr ⟨he.symm, hl, hf, rfl⟩)

theorem k_lt_of_nextIssue {s : State} {c : Issue} (h : s.nextIssue c) : s.k < s.program.length :=
  (List.getElem?_eq_some_iff.mp h.2).1

/-! ## The invariant -/

/-- R74: the carry that a block transform leaves is the last checksum byte. -/
theorem blockTransform_carry (B : Block) (x : Context) : (blockTransform B x).L = (blockTransform B x).C[15] := rfl

/-- R86: the fold of FINAL leaves `C` and `L` as the block transform left them. -/
theorem finalize_carry (B : Block) (x : Context) : (finalize B x).L = (finalize B x).C[15] := rfl

theorem zero_carry : Context.zero.L = Context.zero.C[15] := (zero_C 15).symm

/-- A new run begins in a state that meets the invariant, whatever its sequence: no index, no READ and no fault yet. -/
theorem assertRst_inv (run : List Issue) (later : List (List Issue)) (s : State) : (assertRst run later s).Inv where
  carry := zero_carry
  index := Nat.zero_le _
  readCount := Nat.le_refl 0
  output := by simp
  record := by simp

/-- Running an issue keeps the invariant. Only a fault entry makes a record, and a READ alone changes `dout` and `reads`. -/
theorem Runs.keeps_inv {s t : State} {c : Issue} (hr : Runs s c t) (hn : s.nextIssue c) (h : s.Inv) : t.Inv := by
  have hk : s.k + 1 ≤ s.program.length := k_lt_of_nextIssue hn
  have hreads : s.reads.length ≤ s.k + 1 := Nat.le_succ_of_le h.readCount
  have hrec (p : Phase) (r : FaultRecord) (hs : s.fault = some r) : r.Fits p := by simp [hn.1] at hs
  cases hr with
  | faulted cause fits => exact { h with record := by rintro r ⟨⟩; exact fits }
  | init => exact ⟨zero_carry, hk, hreads, h.output, hrec _⟩
  | absorb => exact ⟨blockTransform_carry _ _, hk, hreads, h.output, hrec _⟩
  | final => exact ⟨finalize_carry _ _, hk, hreads, h.output, hrec _⟩
  | read => exact ⟨h.carry, hk, by simpa using h.readCount, by simp, hrec _⟩

/-- Settles O37, by what a step can do: it runs an issue, starts a run, or holds. -/
theorem stepKeepsInvariant : Obligations.StepKeepsInvariant := by
  intro s t hinv h
  obtain ⟨c, hn, hr⟩ | ⟨-, run, later, -, rfl⟩ | ⟨-, -, -, rfl⟩ := step_next_cases h
  · exact hr.keeps_inv hn hinv
  · exact assertRst_inv run later s
  · exact hinv

/-- Settles O36: the reset state is a new run with no command. -/
theorem resetMeetsInvariant : Obligations.ResetMeetsInvariant :=
  assertRst_inv [] [] State.reset

/-! ## The host's index and the writes -/

/-- R97: no command changes the host's sequences. -/
theorem Runs.keeps_sequences {s t : State} {c : Issue} (hr : Runs s c t) :
    t.program = s.program ∧ t.laterRuns = s.laterRuns := by
  cases hr <;> exact ⟨rfl, rfl⟩

/-- R97: the index moves by one past a command that completes, and not past one that faults. -/
theorem Runs.index {s t : State} {c : Issue} (hr : Runs s c t) (hf : s.fault = none) :
    (t.fault = none ∧ t.k = s.k + 1) ∨ (t.fault ≠ none ∧ t.k = s.k) := by
  cases hr with
  | faulted => exact .inr ⟨by simp, rfl⟩
  | _ => exact .inl ⟨hf, rfl⟩

/-- Settles O32, by the cases of a step: it runs the issue at `k`, starts the next run at index 0, or holds. -/
theorem indexAdvancesByOne : Obligations.IndexAdvancesByOne := by
  intro s t h
  obtain ⟨c, hn, hr⟩ | ⟨he, run, later, hl, rfl⟩ | ⟨he, hl, hf, rfl⟩ := step_next_cases h
  · obtain ⟨hprog, hlater⟩ := hr.keeps_sequences
    exact .inl ⟨hn.1, k_lt_of_nextIssue hn, hprog, hlater, hr.index hn.1⟩
  · exact .inr (.inr ⟨he, rfl, hl⟩)
  · exact .inr (.inl ⟨he, hf, hl, rfl⟩)

/-- R16 to R18: the context is written by INIT, ABSORB and FINAL. -/
theorem Runs.ctx_writers {s t : State} {c : Issue} (hr : Runs s c t) (h : t.ctx ≠ s.ctx) :
    c.cmd = 0x10 ∨ c.cmd = 0x20 ∨ opc c.cmd = 0x3 := by
  cases hr with
  | init word => exact .inl word
  | absorb word => exact .inr (.inl word)
  | final word => exact .inr (.inr word)
  | _ => exact absurd rfl h

/-- R30: `dout` is written by READ. -/
theorem Runs.dout_writer {s t : State} {c : Issue} (hr : Runs s c t) (h : t.dout ≠ s.dout) : c.cmd = 0x40 := by
  cases hr with
  | read word => exact word
  | _ => exact absurd rfl h

/-- R131: the observation grows under READ, by the value written to `dout`. -/
theorem Runs.reads_writer {s t : State} {c : Issue} (hr : Runs s c t) (h : t.reads ≠ s.reads) :
    c.cmd = 0x40 ∧ t.reads = s.reads ++ [t.dout] := by
  cases hr with
  | read word => exact ⟨word, by simp only⟩
  | _ => exact absurd rfl h

/-- R27: INIT opens the phase and FINAL ends it. -/
theorem Runs.phase_writers {s t : State} {c : Issue} (hr : Runs s c t) (h : t.phase ≠ s.phase) :
    (c.cmd = 0x10 ∧ t.phase = .OPEN) ∨ (opc c.cmd = 0x3 ∧ t.phase = .FINALIZED) := by
  cases hr with
  | init word => exact .inl ⟨word, rfl⟩
  | final word => exact .inr ⟨word, rfl⟩
  | _ => exact absurd rfl h

/-- Settles O33: the writers of each field, from what running an issue can do. -/
theorem writeDiscipline : Obligations.WriteDiscipline := by
  intro s t c hn h
  have hr := runs_of_step hn h
  exact ⟨hr.ctx_writers, hr.dout_writer, hr.reads_writer, hr.phase_writers, hr.keeps_sequences⟩

/-! ## The substitution table -/

/-- R26: the byte at which the table holds `b`. -/
def invS (b : Byte) : Byte := BitVec.ofNat 8 (sRows.flatten.idxOf b)

/-- R26: every byte is found again from its entry, so no two entries are equal. -/
theorem invS_leftInverse : Function.LeftInverse invS S := by
  unfold Function.LeftInverse
  decide +kernel

/-- R26: `S` is a permutation, an injective function on the finite set of bytes. -/
theorem S_bijective : Function.Bijective S :=
  Finite.injective_iff_bijective.mp invS_leftInverse.injective

theorem S_ne_self : ∀ i : Byte, S i ≠ i := by decide

theorem S_sum : ((List.range 256).map fun i => (S (BitVec.ofNat 8 i)).toNat).sum = 32640 := by decide +kernel

/-- Settles O7, by an inverse of the table; the other two parts evaluate its 256 entries. -/
theorem substitutionTableIsPermutation : Obligations.SubstitutionTableIsPermutation :=
  ⟨S_bijective, S_ne_self, S_sum⟩

/-! ## Reset -/

/-- Settles O34: reset and `rst` both give the zero context. -/
theorem resetValues : Obligations.ResetValues := by
  refine ⟨?_, fun s run later => ⟨rfl, rfl⟩⟩
  rintro t (rfl | ⟨s, run, later, rfl⟩) <;> exact ⟨zero_C, zero_L, zero_X, rfl, rfl⟩

end Sys2Proof.Machine

/-! # The family 20_memory: the byte packing of the ports, several engines, and READ twice -/

namespace Sys2Proof.Machine

/-! ## The bytes of a port -/

/-- R37: bit `j` of byte `i` of a port is the port's bit `8i + j`. -/
theorem portByte_getLsbD (p : Port) (i j : Nat) (h : j < 8) : (portByte p i).getLsbD j = p.getLsbD (8 * i + j) := by
  simp [portByte, h]

/-- R37: a port is its 16 bytes. -/
theorem port_ext {p q : Port} (h : ∀ i, i < 16 → portByte p i = portByte q i) : p = q := by
  refine BitVec.eq_of_getLsbD_eq fun j hj => ?_
  have hbit := congrArg (·.getLsbD (j % 8)) (h (j / 8) (by omega))
  simpa only [portByte_getLsbD _ _ _ (Nat.mod_lt j (by decide)), Nat.div_add_mod] using hbit

/-- Byte 0 of a list is the least significant byte of its port. -/
theorem portByte_cons_zero (b : Byte) (bs : List Byte) : portByte (portOfBytes (b :: bs)) 0 = b := by
  refine BitVec.eq_of_getLsbD_eq fun j hj => ?_
  rw [portByte_getLsbD _ _ _ hj, portOfBytes]
  simp [hj, show j < 128 by omega]

/-- Putting a byte in front moves every byte of the port up by one; the port has room for byte `i + 1`. -/
theorem portByte_cons_succ (b : Byte) (bs : List Byte) {i : Nat} (h : i + 1 < 16) :
    portByte (portOfBytes (b :: bs)) (i + 1) = portByte (portOfBytes bs) i := by
  refine BitVec.eq_of_getLsbD_eq fun j hj => ?_
  have hroom : 8 * (i + 1) + j < 128 := by omega
  have hin : 8 * i + j < 128 := by omega
  have hhigh : ¬8 * (i + 1) + j < 8 := by omega
  have hback : 8 * (i + 1) + j - 8 = 8 * i + j := by omega
  have hout : b.getLsbD (8 * (i + 1) + j) = false := BitVec.getLsbD_of_ge _ _ (by omega)
  rw [portByte_getLsbD _ _ _ hj, portByte_getLsbD _ _ _ hj, portOfBytes]
  simp [hroom, hin, hhigh, hback, hout]

/-- R37: byte `i` of the port of a list is byte `i` of the list, and 0 past its end. -/
theorem portByte_portOfBytes (bs : List Byte) {i : Nat} (h : i < 16) : portByte (portOfBytes bs) i = bs.getD i 0 := by
  induction bs generalizing i with
  | nil => exact BitVec.extractLsb'_zero
  | cons b bs ih =>
    cases i with
    | zero => exact portByte_cons_zero b bs
    | succ i => rw [portByte_cons_succ b bs h, ih (by omega), List.getD_cons_succ]

theorem portByte_portOfBlock (A : Block) {i : Nat} (h : i < 16) : portByte (portOfBlock A) i = A[i] := by
  simp [portOfBlock, portByte_portOfBytes _ h, h]

@[simp] theorem blockOfPort_portOfBlock (A : Block) : blockOfPort (portOfBlock A) = A :=
  Vector.ext fun i h => by rw [blockOfPort_getElem _ i h, portByte_portOfBlock A h]

@[simp] theorem portOfBlock_blockOfPort (p : Port) : portOfBlock (blockOfPort p) = p :=
  port_ext fun i h => by rw [portByte_portOfBlock _ h, blockOfPort_getElem p i h]

/-! ## The port's value as a sum -/

/-- The new byte and the moved ones share no bit, so their union is their sum. -/
theorem portOfBytes_cons_eq_add (b : Byte) (bs : List Byte) :
    portOfBytes (b :: bs) = portOfBytes bs <<< 8 + b.setWidth 128 := by
  refine (BitVec.add_eq_or_of_and_eq_zero _ _ (BitVec.eq_of_getLsbD_eq fun j hj => ?_)).symm
  by_cases h : j < 8
  · simp [h]
  · simp [BitVec.getLsbD_of_ge b j (by omega)]

/-- R37: a byte on its place `i`. -/
def placedByte (i : Nat) (b : Byte) : Port := b.setWidth 128 <<< (8 * i)

theorem placedByte_zero (b : Byte) : placedByte 0 b = b.setWidth 128 := by simp [placedByte]

theorem placedByte_succ (i : Nat) (b : Byte) : placedByte (i + 1) b = placedByte i b <<< 8 :=
  BitVec.shiftLeft_add _ (8 * i) 8

theorem sum_mapIdx_placedByte_succ (bs : List Byte) :
    (bs.mapIdx fun i => placedByte (i + 1)).sum = (bs.mapIdx placedByte).sum <<< 8 := by
  have hmul (i : Nat) (b : Byte) : placedByte (i + 1) b = placedByte i b * BitVec.twoPow 128 8 := by
    rw [placedByte_succ, BitVec.shiftLeft_eq_mul_twoPow]
  simp only [hmul, BitVec.shiftLeft_eq_mul_twoPow, List.mapIdx_eq_zipIdx_map, List.sum_map_mul_right]

/-- R37: the port of a list is the sum of its bytes, each on its place. -/
theorem portOfBytes_eq_sum (bs : List Byte) : portOfBytes bs = (bs.mapIdx placedByte).sum := by
  induction bs with
  | nil => rfl
  | cons b bs ih =>
    calc portOfBytes (b :: bs)
        = (bs.mapIdx placedByte).sum <<< 8 + placedByte 0 b := by rw [portOfBytes_cons_eq_add, ih, placedByte_zero]
      _ = placedByte 0 b + (bs.mapIdx fun i => placedByte (i + 1)).sum := by
        rw [sum_mapIdx_placedByte_succ, BitVec.add_comm]
      _ = ((b :: bs).mapIdx placedByte).sum := by rw [List.mapIdx_cons, List.sum_cons]

/-- R37: the places of a block's bytes are the sum's terms. -/
theorem mapIdx_placedByte (A : Block) : A.toList.mapIdx placedByte = (List.finRange 16).map (portTerm A) :=
  List.ext_getElem (by simp) fun i _ _ => by simp [placedByte, portTerm]

/-- Settles O6, by induction along the bytes of the array. -/
theorem portBytesPacking : Obligations.PortBytesPacking :=
  ⟨fun A i => portByte_portOfBlock A i.isLt,
    fun A => (portOfBytes_eq_sum A.toList).trans (congrArg List.sum (mapIdx_placedByte A)),
    blockOfPort_portOfBlock, portOfBlock_blockOfPort⟩

/-! ## Several engines -/

/-- R44: a platform steps at `e` when its engine `e` does, and then that engine alone is replaced. -/
theorem stepEngine_eq_next_iff {e : Nat} {p q : Platform} :
    Platform.stepEngine e p = .next q ↔
      ∃ s t, p.engines[e]? = some s ∧ step s = .next t ∧ q = ⟨p.engines.set e t⟩ := by
  unfold Platform.stepEngine
  cases p.engines[e]? with
  | none => simp
  | some s => cases hs : step s <;> simp [hs, eq_comm]

/-- R109, R115: a platform stops at `e` when its engine `e` does. -/
theorem stepEngine_eq_fault_iff {e : Nat} {p : Platform} {x : Fault} :
    Platform.stepEngine e p = .fault x ↔ ∃ s, p.engines[e]? = some s ∧ step s = .fault x := by
  unfold Platform.stepEngine
  cases p.engines[e]? with
  | none => simp
  | some s => cases hs : step s <;> simp [hs]

/-- Settles O42: a step replaces one element of the list of engines, and replacing two different elements commutes. -/
theorem enginesAreIndependent : Obligations.EnginesAreIndependent := by
  intro e p q hq
  obtain ⟨s, t, hs, hst, rfl⟩ := stepEngine_eq_next_iff.mp hq
  have hlt : e < p.engines.length := (List.getElem?_eq_some_iff.mp hs).1
  have hother (f : Nat) (hne : f ≠ e) (y : State) : (p.engines.set e y)[f]? = p.engines[f]? :=
    List.getElem?_set_ne hne.symm
  refine ⟨⟨s, t, hs, hst, List.getElem?_set_self hlt⟩, List.length_set, fun f hne => hother f hne t, ?_, ?_⟩
  · intro f r hne hr
    obtain ⟨v, w, hv, hvw, rfl⟩ := stepEngine_eq_next_iff.mp hr
    refine ⟨⟨(p.engines.set e t).set f w⟩, ?_, ?_⟩
    · exact stepEngine_eq_next_iff.mpr ⟨v, w, (hother f hne t).trans hv, hvw, rfl⟩
    · exact stepEngine_eq_next_iff.mpr
        ⟨s, t, (List.getElem?_set_ne hne).trans hs, hst, by rw [List.set_comm t w hne.symm]⟩
  · intro f x hne hx
    obtain ⟨v, hv, hvx⟩ := stepEngine_eq_fault_iff.mp hx
    exact stepEngine_eq_fault_iff.mpr ⟨v, (hother f hne t).trans hv, hvx⟩

/-! ## READ twice -/

/-- R89: READ in phase FINALIZED puts lane 0 on `dout`, and adds it to the observation. -/
theorem exec_read_of_finalized {s : State} (h : s.phase = .FINALIZED) :
    exec .read s = .next { s with
      dout := portOfBlock (lane0 s.ctx.X), reads := s.reads ++ [portOfBlock (lane0 s.ctx.X)] } := by
  rw [exec_eq_effect, effect, if_pos h]

/-- Settles O22: the first READ leaves the context and the phase, so the second writes the same lane 0. -/
theorem readIsIdempotent : Obligations.ReadIsIdempotent :=
  fun _ h => ⟨_, _, exec_read_of_finalized h, exec_read_of_finalized h, rfl, rfl, rfl⟩

end Sys2Proof.Machine

/-! # The family 30_encoding: the command word, the decoder, the assembler's lines, and ABSORBN -/

namespace Sys2Proof

/-! ## The fields of a command word -/

/-- R49: `OPC` as a number. -/
theorem opc_toNat (w : Byte) : (opc w).toNat = w.toNat / 16 := by
  have hw : w.toNat < 256 := w.isLt
  simp only [opc, BitVec.extractLsb'_toNat, Nat.shiftRight_eq_div_pow]
  omega

/-- R49: `ARG` as a number. -/
theorem arg_toNat (w : Byte) : (arg w).toNat = w.toNat % 16 := by simp [arg]

theorem opc_eq_iff {w : Byte} {o : BitVec 4} : opc w = o ↔ w.toNat / 16 = o.toNat := by
  rw [← BitVec.toNat_inj, opc_toNat]

theorem arg_eq_zero_iff {w : Byte} : arg w = 0 ↔ w.toNat % 16 = 0 := by
  rw [← BitVec.toNat_inj, arg_toNat]
  rfl

@[simp] theorem opc_append (o a : BitVec 4) : opc (o ++ a) = o := BitVec.extractLsb'_append_eq_left

@[simp] theorem arg_append (o a : BitVec 4) : arg (o ++ a) = a :=
  (BitVec.extractLsb'_append_eq_of_add_le (Nat.le_refl 4)).trans BitVec.extractLsb'_eq_self

/-- R49: a word and its two fields determine each other. -/
theorem eq_append_iff {w : Byte} {o a : BitVec 4} : w = o ++ a ↔ opc w = o ∧ arg w = a := by
  refine ⟨?_, fun h => eq_of_fields h.1 h.2⟩
  rintro rfl
  exact ⟨opc_append o a, arg_append o a⟩

/-- Settles O2: the two fields are the quotient and the remainder of the word by 16. -/
theorem wordFields : Obligations.WordFields :=
  fun cmd => ⟨opc_toNat cmd, arg_toNat cmd, (opc_append_arg cmd).symm⟩

/-! ## Decoding a command -/

/-- R52, R55: INIT and READ do not read `din`, and the other two commands keep the sample taken with their word. -/
def Instr.SampleFits (i : Instr) (din : Port) : Prop := i = .init ∨ i = .read ∨ i.sample = din

theorem sampleFits_init (din : Port) : Instr.init.SampleFits din := .inl rfl

theorem sampleFits_read (din : Port) : Instr.read.SampleFits din := .inr (.inl rfl)

theorem sampleFits_sample (i : Instr) : i.SampleFits i.sample := .inr (.inr rfl)

@[simp] theorem sampleFits_absorb_iff {d din : Port} : (Instr.absorb d).SampleFits din ↔ d = din := by
  simp [Instr.SampleFits, Instr.sample]

@[simp] theorem sampleFits_final_iff {n : BitVec 4} {d din : Port} : (Instr.final n d).SampleFits din ↔ d = din := by
  simp [Instr.SampleFits, Instr.sample]

/-- R50 to R52: an instruction's own word decodes to it, with every sample it can have been taken with. -/
theorem decode_word {i : Instr} {din : Port} (h : i.SampleFits din) : decode i.word din = .command i := by
  cases i with
  | init => rfl
  | absorb d => simp [decode, whenArgZero, Instr.word, opc, arg, sampleFits_absorb_iff.mp h]
  | final n d => simp [decode, Instr.word, sampleFits_final_iff.mp h]
  | read => rfl

/-- R50 to R52: a word decodes to an instruction exactly when it is that instruction's word and the sample fits. -/
theorem decode_eq_command_iff {w : Byte} {din : Port} {i : Instr} :
    decode w din = .command i ↔ w = i.word ∧ i.SampleFits din := by
  constructor
  · intro h
    obtain ⟨hw, rfl⟩ | ⟨hw, rfl⟩ | ⟨hw, rfl⟩ | ⟨hw, rfl⟩ := decode_command_cases h
    · exact ⟨hw, sampleFits_init din⟩
    · exact ⟨hw, sampleFits_sample _⟩
    · exact ⟨eq_append_iff.mpr ⟨hw, rfl⟩, sampleFits_sample _⟩
    · exact ⟨hw, sampleFits_read din⟩
  · rintro ⟨rfl, hs⟩
    exact decode_word hs

/-- R55: the issue that stands for an instruction decodes to it. -/
theorem decode_encode (i : Instr) : decode (encode i).cmd (encode i).din = .command i :=
  decode_word (sampleFits_sample i)

/-- Settles O4, by the words that decode to an instruction. -/
theorem decodeEncodeAgree : Obligations.DecodeEncodeAgree :=
  ⟨decode_encode, fun _ _ _ h => (decode_eq_command_iff.mp h).imp Eq.symm id⟩

/-! ## Reserved words -/

/-- R53: the words of each reserved class, as ranges. -/
def Reserved.Covers (why : Reserved) (w : Byte) : Prop :=
  match why with
  | .opcZero => w.toNat ≤ 0x0f
  | .opcUnassigned => 0x50 ≤ w.toNat
  | .argNonzero =>
    (0x11 ≤ w.toNat ∧ w.toNat ≤ 0x1f) ∨ (0x21 ≤ w.toNat ∧ w.toNat ≤ 0x2f) ∨ (0x41 ≤ w.toNat ∧ w.toNat ≤ 0x4f)

/-- R51: an operation that takes no `ARG` makes a reserved word exactly of the third class. -/
theorem whenArgZero_eq_illegal_iff_covers {w : Byte} {i : Instr} {why : Reserved}
    (h : w.toNat / 16 = 1 ∨ w.toNat / 16 = 2 ∨ w.toNat / 16 = 4) :
    whenArgZero (arg w) i = .illegal why ↔ why.Covers w := by
  rw [whenArgZero_eq_illegal, Ne, arg_eq_zero_iff]
  cases why <;> simp [Reserved.Covers] <;> omega

/-- R53, R54: a word is reserved, and why, exactly by the ranges of the three classes. The branches are the decoder's own,
by `OPC`: INIT, ABSORB, FINAL, READ, then zero and the unassigned values. -/
theorem decode_eq_illegal_iff {w : Byte} {din : Port} {why : Reserved} :
    decode w din = .illegal why ↔ why.Covers w := by
  unfold decode
  simp only [opc_eq_iff, BitVec.reduceToNat]
  split_ifs
  · exact whenArgZero_eq_illegal_iff_covers (by omega)
  · exact whenArgZero_eq_illegal_iff_covers (by omega)
  · cases why <;> simp [Reserved.Covers] <;> omega
  · exact whenArgZero_eq_illegal_iff_covers (by omega)
  · cases why <;> simp [Reserved.Covers] <;> omega
  · cases why <;> simp [Reserved.Covers] <;> omega

/-! ## Which words each operation has -/

/-- R50: every instruction's `OPC` is one of the four assigned ones. -/
theorem opc_word_mem (i : Instr) : opc i.word ∈ [0x1, 0x2, 0x3, 0x4] := by
  cases i with
  | final => simp [Instr.word]
  | _ => simp [Instr.word, opc]

theorem decode_eq_init_iff {w : Byte} {din : Port} : decode w din = .command .init ↔ opc w = 0x1 ∧ arg w = 0 :=
  decode_eq_command_iff.trans ((and_iff_left (sampleFits_init din)).trans (eq_append_iff (o := 0x1) (a := 0)))

theorem decode_eq_absorb_iff {w : Byte} {din d : Port} :
    decode w din = .command (.absorb d) ↔ opc w = 0x2 ∧ arg w = 0 ∧ d = din :=
  decode_eq_command_iff.trans
    ((and_congr (eq_append_iff (o := 0x2) (a := 0)) sampleFits_absorb_iff).trans and_assoc)

theorem decode_eq_final_iff {w : Byte} {din d : Port} {n : BitVec 4} :
    decode w din = .command (.final n d) ↔ opc w = 0x3 ∧ n = arg w ∧ d = din := by
  rw [decode_eq_command_iff, sampleFits_final_iff, Instr.word, eq_append_iff, and_assoc, eq_comm (a := arg w)]

theorem decode_eq_read_iff {w : Byte} {din : Port} : decode w din = .command .read ↔ opc w = 0x4 ∧ arg w = 0 :=
  decode_eq_command_iff.trans ((and_iff_left (sampleFits_read din)).trans (eq_append_iff (o := 0x4) (a := 0)))

/-- R50: a word with none of the four assigned values of `OPC` is reserved. -/
theorem decode_illegal_of_opc {w : Byte} (h : opc w ∉ [0x1, 0x2, 0x3, 0x4]) (din : Port) :
    ∃ why, decode w din = .illegal why := by
  cases hd : decode w din with
  | command i => exact absurd ((decode_eq_command_iff.mp hd).1 ▸ opc_word_mem i) h
  | illegal why => exact ⟨why, rfl⟩

/-- Settles O3, by the words of each operation. -/
theorem opcodeAssignment : Obligations.OpcodeAssignment :=
  fun _ din => ⟨decode_eq_init_iff, fun _ => decode_eq_absorb_iff, fun _ _ => decode_eq_final_iff, decode_eq_read_iff,
    fun h => decode_illegal_of_opc h din⟩

/-- Settles O1, by the fields of the legal words and the ranges of the reserved ones. -/
theorem decodeExamples : Obligations.DecodeExamples := by
  intro din
  have absorb : decode 0x20 din = .command (.absorb din) := decode_eq_absorb_iff.mpr ⟨by decide, by decide, rfl⟩
  have final (n : BitVec 4) : decode ((0x3 : BitVec 4) ++ n) din = .command (.final n din) :=
    decode_eq_final_iff.mpr ⟨opc_append _ n, (arg_append _ n).symm, rfl⟩
  exact ⟨decode_eq_init_iff.mpr (by decide), absorb, final 0, final 3, final 15, decode_eq_read_iff.mpr (by decide),
    decode_eq_illegal_iff.mpr (by simp [Reserved.Covers]), decode_eq_illegal_iff.mpr (by simp [Reserved.Covers]),
    decode_eq_illegal_iff.mpr (by simp [Reserved.Covers])⟩

end Sys2Proof

namespace Sys2Proof.Machine

/-! ## Running a word -/

/-- R53, R102: a reserved word that is issued enters ILLEGAL_COMMAND. -/
theorem step_of_illegal {s : State} {c : Issue} {why : Reserved} (hn : s.nextIssue c)
    (hd : decode c.cmd c.din = .illegal why) : step s = .next (raiseFault .illegalCommand c.cmd s) := by
  simp [step_of_nextIssue hn.1 hn.2, runIssue, hd]

/-- R95, R97: a command that is issued has its effect, and `k` moves past it unless it faulted. -/
theorem step_of_command {s : State} {c : Issue} {i : Instr} (hn : s.nextIssue c)
    (hd : decode c.cmd c.din = .command i) : step s = .next (advance (effect i s)) := by
  simp [step_of_nextIssue hn.1 hn.2, runIssue, hd, exec_eq_effect, thenAdvance]

/-- R53: the three classes hold 16, 176 and 45 of the 256 words. -/
theorem countP_reserved : ((List.range 256).countP fun w => decodeTableWord 8 w = none) = 237 := by decide +kernel

/-- Settles O5, by the ranges of the reserved words and the fault entry of their step. -/
theorem reservedWordsRaiseIllegalCommand : Obligations.ReservedWordsRaiseIllegalCommand :=
  ⟨fun _ _ => ⟨decode_eq_illegal_iff, decode_eq_illegal_iff, decode_eq_illegal_iff⟩, countP_reserved,
    fun _ _ _ _ hn hd => step_of_illegal hn hd⟩

theorem decodeTableWord_eq_some_iff {nbits w : Nat} {i : Instr} :
    decodeTableWord nbits w = some i ↔
      decode (issueOfBits nbits w).cmd (issueOfBits nbits w).din = .command i := by
  unfold decodeTableWord
  split <;> simp_all

/-- Log entry 6: the issue that is stored is the next one. -/
theorem loadIssue_nextIssue (c : Issue) (s : State) : (loadIssue c s).nextIssue c :=
  ⟨loadIssue_fault c s, loadIssue_program c s⟩

/-- Settles O31: the stored word is the next issue, and it decodes to the table row's command. -/
theorem storedWordRunsNext : Obligations.StoredWordRunsNext :=
  fun s _ _ i h => ⟨_, exec_eq_effect i _, step_of_command (loadIssue_nextIssue _ s) (decodeTableWord_eq_some_iff.mp h)⟩

/-! ## FINAL's unread bytes -/

/-- R84: PAD sees of the sample its first `n` bytes. -/
theorem padBlock_congr {n : BitVec 4} {d e : Port} (h : ∀ i, i < n.toNat → portByte d i = portByte e i) :
    padBlock n d = padBlock n e := by
  have hbytes : leftoverBytes n.toNat d = leftoverBytes n.toNat e :=
    List.map_congr_left fun i hi => h i (List.mem_range.mp hi)
  rw [padBlock, padBlock, leftoverCount_toNat, hbytes]

/-- Settles O20: FINAL reads `din` through its padded block. -/
theorem finalIgnoresBytesBeyondCount : Obligations.FinalIgnoresBytesBeyondCount := by
  intro n d e s h
  rw [exec_eq_effect, exec_eq_effect, effect, effect, padBlock_congr h]

/-! ## The assembler's lines -/

theorem assemble_of_wf {a : Asm} (h : a.wf = true) : assemble [a] = some (expand a) := by
  simp [assemble, h]

/-- R57: a line of wrong length is refused. -/
theorem assemble_of_not_wf {a : Asm} (h : a.wf ≠ true) : assemble [a] = none := by
  simp [assemble, h]

theorem wf_absorb_iff {block : List Byte} : (Asm.absorb block).wf = true ↔ block.length = 16 := by
  simp [Asm.wf, Config.blockBytes]

theorem wf_final_iff {n : Nat} {bytes : List Byte} : (Asm.final n bytes).wf = true ↔ n ≤ 15 ∧ bytes.length = n := by
  simp [Asm.wf, Config.blockBytes, Nat.lt_succ_iff]

theorem wf_absorbN_iff {k : Nat} {bytes : List Byte} :
    (Asm.absorbN k bytes).wf = true ↔ bytes.length = 16 * k := by
  simp [Asm.wf, Config.blockBytes]

/-- R50, R51: FINAL's word as a number. -/
theorem finalIssue_cmd_toNat {n : Nat} (h : n ≤ 15) (bytes : List Byte) :
    (finalIssue n bytes).cmd.toNat = 0x30 + n := by
  have hopc : (opc (finalIssue n bytes).cmd).toNat = 3 := by simp [finalIssue, encode, Instr.word]
  have harg : (arg (finalIssue n bytes).cmd).toNat = n := by
    simp [finalIssue, encode, Instr.word, Nat.mod_eq_of_lt (show n < 16 by omega)]
  rw [opc_toNat] at hopc
  rw [arg_toNat] at harg
  omega

/-- Settles O39: a line is encoded exactly when it is well formed, with its bytes on `din`. -/
theorem linesEncodeOrAreRefused : Obligations.LinesEncodeOrAreRefused := by
  refine ⟨fun n bytes => ⟨fun h => assemble_of_not_wf (mt wf_final_iff.mp h), fun h => ?_⟩,
    fun block => ⟨fun h => assemble_of_not_wf (mt wf_absorb_iff.mp h), fun h => ?_⟩⟩
  · exact ⟨finalIssue n bytes, assemble_of_wf (wf_final_iff.mpr h), finalIssue_cmd_toNat h.1 bytes,
      fun i hi => portByte_portOfBytes bytes (by omega)⟩
  · exact ⟨encode (.absorb (portOfBytes block)), assemble_of_wf (wf_absorb_iff.mpr h), rfl,
      fun i hi => portByte_portOfBytes block hi⟩

/-! ## ABSORBN -/

/-- R58: the `din` sample of ABSORBN's issue `i`. -/
def absorbSample (bytes : List Byte) (i : Nat) : Port := portOfBytes ((bytes.drop (16 * i)).take 16)

@[simp] theorem absorbIssues_length (k : Nat) (bytes : List Byte) : (absorbIssues k bytes).length = k := by
  simp [absorbIssues]

theorem absorbIssues_getElem (k : Nat) (bytes : List Byte) (i : Nat) (h : i < (absorbIssues k bytes).length) :
    (absorbIssues k bytes)[i] = encode (.absorb (absorbSample bytes i)) := by
  simp [absorbIssues, absorbSample]

theorem absorbIssues_succ (k : Nat) (bytes : List Byte) :
    absorbIssues (k + 1) bytes = absorbIssues k bytes ++ [encode (.absorb (absorbSample bytes k))] := by
  simp [absorbIssues, absorbSample, List.range_succ]

/-- R58: issue `i` carries bytes `16i..16i+15`. -/
theorem portByte_absorbSample (bytes : List Byte) (i : Nat) {j : Nat} (h : j < 16) :
    portByte (absorbSample bytes i) j = bytes.getD (16 * i + j) 0 := by
  simp [absorbSample, portByte_portOfBytes _ h, h]

/-- R36, R58: issue `i` carries the message's block `i`. -/
theorem blockOfPort_absorbSample (bytes : List Byte) (i : Nat) :
    blockOfPort (absorbSample bytes i) = blockOfBytes (bytes.drop (16 * i)) :=
  Vector.ext fun j h => by simp [portByte_absorbSample bytes i h, blockOfBytes]

/-- Settles O38, by the sample each issue carries. -/
theorem absorbNExpansion : Obligations.AbsorbNExpansion := by
  refine fun k bytes => ⟨fun h => assemble_of_not_wf (mt wf_absorbN_iff.mp h), fun h => ?_⟩
  refine ⟨absorbIssues k bytes, assemble_of_wf (wf_absorbN_iff.mpr h), absorbIssues_length k bytes, fun i hi => ?_⟩
  rw [absorbIssues_getElem]
  exact ⟨rfl, fun j hj => portByte_absorbSample bytes i hj⟩

/-! ## Running ABSORBN -/

/-- R76, R97: an ABSORB issued in phase OPEN transforms its block, and `k` moves past it. -/
theorem step_of_absorb {s : State} {din : Port} (hn : s.nextIssue (encode (.absorb din))) (hp : s.phase = .OPEN) :
    step s = .next { s with ctx := blockTransform (blockOfPort din) s.ctx, k := s.k + 1 } := by
  rw [step_of_command hn (decode_encode _), effect, if_pos hp, advance_of_good]
  exact hn.1

/-- A step after `n` steps that answered a next state is step `n + 1`. -/
theorem runSteps_succ_of_next {n : Nat} {s t u : State} (hr : runSteps n s = .next t) (hs : step t = .next u) :
    runSteps (n + 1) s = .next u := by
  induction n generalizing s with
  | zero =>
    cases hr
    simp [runSteps, hs]
  | succ n ih =>
    rw [runSteps] at hr ⊢
    split at hr
    · next v hv => simpa [hv] using ih hr
    all_goals cases hr

/-- R92: the blocks are absorbed in message order, the last one last. -/
theorem absorbBlocks_succ (bytes : List Byte) (k : Nat) (x : Context) :
    absorbBlocks bytes (k + 1) x = blockTransform (blockOfBytes (bytes.drop (16 * k))) (absorbBlocks bytes k x) := by
  simp [absorbBlocks, List.range_succ]

/-- R79: ABSORBN's issues run one after the other, whatever issues follow them. -/
theorem runSteps_absorbIssues (bytes : List Byte) (k : Nat) {s : State} {rest : List Issue} (hf : s.fault = none)
    (hp : s.phase = .OPEN) (hprog : s.program.drop s.k = absorbIssues k bytes ++ rest) :
    runSteps k s = .next { s with ctx := absorbBlocks bytes k s.ctx, k := s.k + k } := by
  induction k generalizing rest with
  | zero => rfl
  | succ k ih =>
    rw [absorbIssues_succ, List.append_assoc] at hprog
    have hissue : s.program[s.k + k]? = some (encode (.absorb (absorbSample bytes k))) := by
      rw [← List.getElem?_drop, hprog]
      simp
    rw [runSteps_succ_of_next (ih hprog) (step_of_absorb ⟨hf, hissue⟩ hp), blockOfPort_absorbSample,
      ← absorbBlocks_succ, Nat.add_assoc]

/-- Settles O40, by induction on the number of blocks. -/
theorem absorbNRunsInOrder : Obligations.AbsorbNRunsInOrder :=
  fun bytes k _ _ _ hf hp hprog => runSteps_absorbIssues bytes k hf hp hprog

end Sys2Proof.Machine

/-! # The family 40_permutation_engine: PERMUTE, step by step and against its pseudocode -/

namespace Sys2Proof.Machine

/-! ## Steps 1 and 2: the lanes -/

/-- R18: an index of the mixing state is an index of one of its three lanes. -/
theorem exists_lane_index {i : Nat} (h : i < 48) : ∃ j < 16, i = j ∨ i = 16 + j ∨ i = 32 + j :=
  ⟨i % 16, by omega, by omega⟩

theorem loadLane1_lane0 (X : MixState) (B : Block) {j : Nat} (h : j < 16) : (loadLane1 X B)[j] = X[j] := by
  rw [loadLane1_getElem, dif_neg (by omega)]

theorem loadLane1_lane1 (X : MixState) (B : Block) {j : Nat} (h : j < 16) : (loadLane1 X B)[16 + j] = B[j] := by
  rw [loadLane1_getElem, dif_pos (by omega)]
  simp

theorem loadLane1_lane2 (X : MixState) (B : Block) {j : Nat} (h : j < 16) : (loadLane1 X B)[32 + j] = X[32 + j] := by
  rw [loadLane1_getElem, dif_neg (by omega)]

/-- R65: step 2 writes neither lane 0 nor lane 1. -/
theorem xorLane2_below (X : MixState) {i : Nat} (h : i < 32) : (xorLane2 X)[i] = X[i] := by
  rw [xorLane2_getElem, dif_neg (by omega)]

theorem xorLane2_lane2 (X : MixState) {j : Nat} (h : j < 16) : (xorLane2 X)[32 + j] = X[j] ^^^ X[16 + j] := by
  rw [xorLane2_getElem, dif_pos (by omega)]
  simp [show 32 + j - 16 = 16 + j by omega]

/-- R64, R65: the state the rounds start from. -/
def loadLanes (X : MixState) (B : Block) : MixState := xorLane2 (loadLane1 X B)

theorem loadLanes_lane0 (X : MixState) (B : Block) {j : Nat} (h : j < 16) : (loadLanes X B)[j] = X[j] := by
  rw [loadLanes, xorLane2_below _ (by omega), loadLane1_lane0 X B h]

theorem loadLanes_lane1 (X : MixState) (B : Block) {j : Nat} (h : j < 16) : (loadLanes X B)[16 + j] = B[j] := by
  rw [loadLanes, xorLane2_below _ (by omega), loadLane1_lane1 X B h]

theorem loadLanes_lane2 (X : MixState) (B : Block) {j : Nat} (h : j < 16) :
    (loadLanes X B)[32 + j] = X[j] ^^^ B[j] := by
  rw [loadLanes, xorLane2_lane2 _ h, loadLane1_lane0 X B h, loadLane1_lane1 X B h]

/-- Settles O8, lane by lane. -/
theorem laneLoadAndXor : Obligations.LaneLoadAndXor :=
  fun X B _ h => ⟨loadLane1_lane0 X B h, loadLane1_lane1 X B h, loadLane1_lane2 X B h,
    loadLanes_lane0 X B h, loadLanes_lane1 X B h, loadLanes_lane2 X B h⟩

theorem getElem_eq_of_lane0_eq {X Y : MixState} (h : lane0 X = lane0 Y) {j : Nat} (hj : j < 16) : X[j] = Y[j] := by
  rw [← lane0_getElem X j hj, h, lane0_getElem Y j hj]

/-- R70: the state the rounds start from holds nothing of the old lanes 1 and 2. -/
theorem loadLanes_congr {X Y : MixState} (h : lane0 X = lane0 Y) (B : Block) : loadLanes X B = loadLanes Y B := by
  refine Vector.ext fun i hi => ?_
  obtain ⟨j, hj, rfl | rfl | rfl⟩ := exists_lane_index hi
  · rw [loadLanes_lane0 X B hj, loadLanes_lane0 Y B hj, getElem_eq_of_lane0_eq h hj]
  · rw [loadLanes_lane1 X B hj, loadLanes_lane1 Y B hj]
  · rw [loadLanes_lane2 X B hj, loadLanes_lane2 Y B hj, getElem_eq_of_lane0_eq h hj]

theorem permute_eq_rounds (X : MixState) (B : Block) : permute X B = (rounds 18 (loadLanes X B)).X := rfl

/-- Settles O12: the rounds start from equal states. -/
theorem permuteReadsOnlyLane0 : Obligations.PermuteReadsOnlyLane0 := by
  intro X Y B h
  rw [permute_eq_rounds, permute_eq_rounds, loadLanes_congr h]

/-! ## The inner pass -/

/-- R67: each byte the pass writes takes its entry of `S` from the byte before it, the first from the accumulator. -/
theorem passBytes_getElem (t : Byte) (xs : List Byte) (j : Nat) (h : j < xs.length) :
    (passBytes t xs)[j]'(by rwa [passBytes_length]) =
      xs[j] ^^^ S ((t :: passBytes t xs)[j]'(by rw [List.length_cons, passBytes_length]; omega)) := by
  induction xs generalizing t j with
  | nil => exact absurd h (Nat.not_lt_zero j)
  | cons x xs ih =>
    cases j with
    | zero => rfl
    | succ j => exact ih (x ^^^ S t) j (Nat.lt_of_succ_lt_succ h)

/-- R67: the accumulator `t` when `j` steps of the pass have run. -/
def accumulator (t : Byte) (X : MixState) (j : Nat) : Byte := (t :: (innerPass t X).toList).getD j 0

@[simp] theorem accumulator_zero (t : Byte) (X : MixState) : accumulator t X 0 = t := rfl

/-- R67: a step writes its result both to `t` and to the state. -/
theorem accumulator_succ (t : Byte) (X : MixState) {j : Nat} (h : j < 48) :
    accumulator t X (j + 1) = (innerPass t X)[j] := by
  simp [accumulator, h]

theorem innerPass_getElem (t : Byte) (X : MixState) {j : Nat} (h : j < 48) :
    (innerPass t X)[j] = X[j] ^^^ S (accumulator t X j) := by
  have hstep := passBytes_getElem t X.toList j (by simpa using h)
  rw [List.getElem_eq_getD 0 (l := t :: _)] at hstep
  exact hstep

/-- Settles O9, by the accumulator each step reads. -/
theorem innerPassSteps : Obligations.InnerPassSteps := by
  intro t X
  refine ⟨innerPass_getElem t X (by omega), fun j h => ?_⟩
  rw [innerPass_getElem t X (by omega), accumulator_succ t X (by omega)]

/-! ## The rounds -/

@[simp] theorem rounds_zero (X : MixState) : rounds 0 X = ⟨0x00, X⟩ := rfl

theorem rounds_succ (n : Nat) (X : MixState) : rounds (n + 1) X = permuteRound (rounds n X) n := by
  simp [rounds, List.range_succ]

@[simp] theorem permuteRound_X (q : RoundState) (r : Nat) : (permuteRound q r).X = innerPass q.t q.X := rfl

@[simp] theorem permuteRound_t (q : RoundState) (r : Nat) :
    (permuteRound q r).t = (innerPass q.t q.X)[47] + BitVec.ofNat 8 r := rfl

/-- Settles O10: `n + 1` rounds are `n` rounds and then round `n`. -/
theorem roundsCarryAccumulator : Obligations.RoundsCarryAccumulator := by
  refine ⟨rounds_zero, fun r X => ?_, permute_eq_rounds⟩
  rw [rounds_succ]
  exact ⟨rfl, by simp⟩

end Sys2Proof.Machine

namespace Sys2Proof.Machine.Reference

/-! ## The pseudocode's loops -/

@[simp] theorem loop_self {σ : Type} (a : Nat) (body : σ → Nat → σ) (s : σ) : loop a a body s = s := by
  simp [loop]

/-- R9: the last iteration of a loop is that of its greatest index. -/
theorem loop_succ {σ : Type} {a b : Nat} (h : a ≤ b) (body : σ → Nat → σ) (s : σ) :
    loop a (b + 1) body s = body (loop a b body s) b := by
  simp [loop, Nat.succ_sub h, List.range'_concat, Nat.add_sub_cancel' h]

@[simp] theorem write_same (A : Bytes) (i : Nat) (v : Byte) : write A i v i = v := if_pos rfl

theorem write_of_ne (A : Bytes) {i j : Nat} (h : j ≠ i) (v : Byte) : write A i v j = A j := if_neg h

/-- A loop that writes index `o + j` in iteration `j`, and reads nothing from `o` on, writes what its body answers of the
array it starts with. -/
theorem loop_write {o n : Nat} {f : Bytes → Nat → Byte} {A : Bytes}
    (hf : ∀ Y : Bytes, (∀ i < o, Y i = A i) → ∀ j < n, f Y j = f A j) (i : Nat) :
    loop 0 n (fun Y j => write Y (o + j) (f Y j)) A i = if o ≤ i ∧ i < o + n then f A (i - o) else A i := by
  induction n generalizing i with
  | zero => simp [show ¬(o ≤ i ∧ i < o) by omega]
  | succ n ih =>
    have ih := ih fun Y hY j hj => hf Y hY j (Nat.lt_succ_of_lt hj)
    rw [loop_succ (Nat.zero_le n), hf _ (fun i hi => by rw [ih, if_neg (by omega)]) n (Nat.lt_succ_self n)]
    by_cases hi : i = o + n
    · subst hi
      rw [write_same, if_pos (by omega), Nat.add_sub_cancel_left]
    · rw [write_of_ne _ hi, ih]
      exact if_congr (by omega) rfl rfl

/-! ## PERMUTE's pseudocode, step by step -/

/-- R64, step 1 of the pseudocode. -/
def loadLane1 (X B : Bytes) : Bytes := loop 0 16 (fun X j => write X (16 + j) (B j)) X

/-- R65, step 2 of the pseudocode. -/
def xorLane2 (X : Bytes) : Bytes := loop 0 16 (fun X j => write X (32 + j) (X j ^^^ X (16 + j))) X

/-- R67: one step of the pseudocode's inner pass, on `t` and the state. -/
def passStep (q : Byte × Bytes) (j : Nat) : Byte × Bytes :=
  let t := q.2 j ^^^ S q.1
  (t, write q.2 j t)

/-- R67, R68: one round of the pseudocode. -/
def roundStep (q : Byte × Bytes) (r : Nat) : Byte × Bytes :=
  let q := loop 0 48 passStep q
  (q.1 + BitVec.ofNat 8 r, q.2)

theorem permute_eq_loop (X B : Bytes) :
    permute X B = (loop 0 18 roundStep (0x00, xorLane2 (loadLane1 X B))).2 := rfl

end Sys2Proof.Machine.Reference

namespace Sys2Proof.Machine

/-! ## PERMUTE against its pseudocode -/

/-- The pseudocode's array `A` holds the bytes of `V`. -/
def Represents {n : Nat} (A : Reference.Bytes) (V : Vector Byte n) : Prop := ∀ (i : Nat) (h : i < n), A i = V[i]

theorem bytesOf_represents {n : Nat} (V : Vector Byte n) : Represents (bytesOf V) V :=
  fun i h => by simp [bytesOf, h]

section
variable {A b : Reference.Bytes} {X : MixState} {B : Block}

/-- R64: step 1 keeps the representation. -/
theorem loadLane1_represents (hA : Represents A X) (hb : Represents b B) :
    Represents (Reference.loadLane1 A b) (loadLane1 X B) := by
  intro i hi
  rw [Reference.loadLane1, Reference.loop_write (fun _ _ _ _ => rfl), loadLane1_getElem]
  split
  · exact hb _ _
  · exact hA i hi

/-- R65: step 2 keeps the representation; its loop reads lanes 0 and 1 and writes lane 2. -/
theorem xorLane2_represents (hA : Represents A X) : Represents (Reference.xorLane2 A) (xorLane2 X) := by
  intro i hi
  have hread (Y : Reference.Bytes) (hY : ∀ i < 32, Y i = A i) (j : Nat) (hj : j < 16) :
      Y j ^^^ Y (16 + j) = A j ^^^ A (16 + j) := by
    rw [hY j (by omega), hY (16 + j) (by omega)]
  rw [Reference.xorLane2, Reference.loop_write hread, xorLane2_getElem]
  by_cases h : 32 ≤ i
  · rw [if_pos (by omega), dif_pos h, hA _ (by omega), hA _ (by omega)]
    simp [show 16 + (i - 32) = i - 16 by omega]
  · rw [if_neg (by omega), dif_neg h, hA i hi]

/-- R67: `n` steps of the pseudocode's pass leave the accumulator of `n` steps, the first `n` bytes written and the others
as they were. -/
theorem loop_passStep (hA : Represents A X) (t : Byte) {n : Nat} (hn : n ≤ 48) :
    Reference.loop 0 n Reference.passStep (t, A) =
      (accumulator t X n, fun i => if i < n then accumulator t X (i + 1) else A i) := by
  induction n with
  | zero => simp
  | succ n ih =>
    have hstep : A n ^^^ S (accumulator t X n) = accumulator t X (n + 1) := by
      rw [accumulator_succ t X hn, innerPass_getElem t X hn, hA n hn]
    rw [Reference.loop_succ (Nat.zero_le n), ih (Nat.le_of_succ_le hn)]
    simp only [Reference.passStep, lt_irrefl, if_false, hstep, Prod.mk.injEq, true_and]
    funext i
    by_cases hi : i = n
    · subst hi
      rw [Reference.write_same, if_pos (Nat.lt_succ_self i)]
    · rw [Reference.write_of_ne _ hi]
      exact if_congr (by omega) rfl rfl

/-- R67: after the pass, `t` is the last byte it wrote. -/
theorem loop_passStep_accumulator (hA : Represents A X) (t : Byte) :
    (Reference.loop 0 48 Reference.passStep (t, A)).1 = (innerPass t X)[47] := by
  rw [loop_passStep hA t le_rfl]
  exact accumulator_succ t X (by omega)

theorem innerPass_represents (hA : Represents A X) (t : Byte) :
    Represents (Reference.loop 0 48 Reference.passStep (t, A)).2 (innerPass t X) := by
  intro i hi
  simp only [loop_passStep hA t le_rfl, if_pos hi]
  exact accumulator_succ t X hi

/-- R66, R68: the pseudocode's rounds carry the machine's accumulator and state. -/
theorem rounds_represents (hA : Represents A X) (n : Nat) :
    (Reference.loop 0 n Reference.roundStep (0x00, A)).1 = (rounds n X).t ∧
      Represents (Reference.loop 0 n Reference.roundStep (0x00, A)).2 (rounds n X).X := by
  induction n with
  | zero => exact ⟨rfl, hA⟩
  | succ n ih =>
    obtain ⟨ht, hX⟩ := ih
    rw [Reference.loop_succ (Nat.zero_le n), rounds_succ, permuteRound_t, permuteRound_X, ← ht]
    exact ⟨congrArg (· + BitVec.ofNat 8 n) (loop_passStep_accumulator hX _), innerPass_represents hX _⟩

/-- R63: PERMUTE computes what its pseudocode computes, whatever arrays hold its operands. -/
theorem permute_represents (hA : Represents A X) (hb : Represents b B) :
    Represents (Reference.permute A b) (permute X B) := by
  rw [Reference.permute_eq_loop, permute_eq_rounds, loadLanes]
  exact (rounds_represents (xorLane2_represents (loadLane1_represents hA hb)) 18).2

end

/-- Settles O11: the pseudocode on the operands' own bytes. -/
theorem permuteMeetsPseudocode : Obligations.PermuteMeetsPseudocode :=
  fun X B i => (permute_represents (bytesOf_represents X) (bytesOf_represents B) i i.isLt).symm

end Sys2Proof.Machine

/-! # The family 41_block_transform: CHECKSUM_UPDATE, byte by byte and against its pseudocode, and ABSORB -/

namespace Sys2Proof.Machine

/-! ## The checksum's carry -/

/-- R73: each new checksum byte takes its entry of `S` from the block's byte and the new byte before it, the first from the
carry. -/
theorem checksumBytes_getElem (L : Byte) (cs bs : List Byte) (j : Nat) (hc : j < cs.length) (hb : j < bs.length) :
    (checksumBytes L cs bs)[j]'(by rw [checksumBytes_length]; omega) =
      cs[j] ^^^
        S (bs[j] ^^^ (L :: checksumBytes L cs bs)[j]'(by rw [List.length_cons, checksumBytes_length]; omega)) := by
  induction cs generalizing L bs j with
  | nil => exact absurd hc (Nat.not_lt_zero j)
  | cons c cs ih =>
    cases bs with
    | nil => exact absurd hb (Nat.not_lt_zero j)
    | cons b bs =>
      cases j with
      | zero => rfl
      | succ j => exact ih (c ^^^ S (b ^^^ L)) bs j (Nat.lt_of_succ_lt_succ hc) (Nat.lt_of_succ_lt_succ hb)

/-- R74: the carry when `j` bytes of the checksum have been updated. -/
def carryAfter (C : Block) (L : Byte) (B : Block) (j : Nat) : Byte :=
  (L :: (checksumUpdate C L B).toList).getD j 0

@[simp] theorem carryAfter_zero (C : Block) (L : Byte) (B : Block) : carryAfter C L B 0 = L := rfl

/-- R74: the carry is set to the byte just updated. -/
theorem carryAfter_succ (C : Block) (L : Byte) (B : Block) {j : Nat} (h : j < 16) :
    carryAfter C L B (j + 1) = (checksumUpdate C L B)[j] := by
  simp [carryAfter, h]

theorem checksumUpdate_getElem (C : Block) (L : Byte) (B : Block) {j : Nat} (h : j < 16) :
    (checksumUpdate C L B)[j] = C[j] ^^^ S (B[j] ^^^ carryAfter C L B j) := by
  have hstep := checksumBytes_getElem L C.toList B.toList j (by simpa using h) (by simpa using h)
  rw [List.getElem_eq_getD 0 (l := L :: _)] at hstep
  exact hstep

@[simp] theorem blockTransform_C (B : Block) (x : Context) : (blockTransform B x).C = checksumUpdate x.C x.L B := rfl

/-- Settles O14, by the carry each byte reads. -/
theorem checksumCarryChain : Obligations.ChecksumCarryChain := by
  intro x B
  refine ⟨checksumUpdate_getElem x.C x.L B (by omega), fun j h => ?_, blockTransform_carry B x⟩
  simp only [blockTransform_C]
  rw [checksumUpdate_getElem _ _ _ (by omega), carryAfter_succ _ _ _ (by omega)]

end Sys2Proof.Machine

namespace Sys2Proof.Machine.Reference

/-- R73: one step of the pseudocode, on the checksum and the carry. -/
def checksumStep (B : Bytes) (q : Bytes × Byte) (j : Nat) : Bytes × Byte :=
  let C := write q.1 j (q.1 j ^^^ S (B j ^^^ q.2))
  (C, C j)

theorem checksumUpdate_eq_loop (C : Bytes) (L : Byte) (B : Bytes) :
    checksumUpdate C L B = loop 0 16 (checksumStep B) (C, L) := rfl

end Sys2Proof.Machine.Reference

namespace Sys2Proof.Machine

/-! ## CHECKSUM_UPDATE against its pseudocode -/

section
variable {A b : Reference.Bytes} {C B : Block}

/-- R73: `n` steps of the pseudocode leave the first `n` bytes updated, the others as they were, and the carry of `n`
steps. -/
theorem loop_checksumStep (hA : Represents A C) (hb : Represents b B) (L : Byte) {n : Nat} (hn : n ≤ 16) :
    Reference.loop 0 n (Reference.checksumStep b) (A, L) =
      (fun i => if i < n then carryAfter C L B (i + 1) else A i, carryAfter C L B n) := by
  induction n with
  | zero => simp
  | succ n ih =>
    have hstep : A n ^^^ S (b n ^^^ carryAfter C L B n) = carryAfter C L B (n + 1) := by
      rw [carryAfter_succ C L B hn, checksumUpdate_getElem C L B hn, hA n hn, hb n hn]
    rw [Reference.loop_succ (Nat.zero_le n), ih (Nat.le_of_succ_le hn)]
    simp only [Reference.checksumStep, lt_irrefl, if_false, hstep, Reference.write_same, Prod.mk.injEq, and_true]
    funext i
    by_cases hi : i = n
    · subst hi
      rw [Reference.write_same, if_pos (Nat.lt_succ_self i)]
    · rw [Reference.write_of_ne _ hi]
      exact if_congr (by omega) rfl rfl

/-- R73: CHECKSUM_UPDATE computes the checksum of its pseudocode, whatever arrays hold its operands. -/
theorem checksumUpdate_represents (hA : Represents A C) (hb : Represents b B) (L : Byte) :
    Represents (Reference.checksumUpdate A L b).1 (checksumUpdate C L B) := by
  intro i hi
  simp only [Reference.checksumUpdate_eq_loop, loop_checksumStep hA hb L le_rfl, if_pos hi]
  exact carryAfter_succ C L B hi

/-- R73, R74: the carry of the pseudocode is the last checksum byte. -/
theorem reference_checksumUpdate_carry (hA : Represents A C) (hb : Represents b B) (L : Byte) :
    (Reference.checksumUpdate A L b).2 = (checksumUpdate C L B)[15] := by
  rw [Reference.checksumUpdate_eq_loop, loop_checksumStep hA hb L le_rfl]
  exact carryAfter_succ C L B (by omega)

end

/-- R76: what the pseudocode of CHECKSUM_UPDATE and PERMUTE makes of a context and a block. -/
structure MeetsPseudocode (b : Reference.Bytes) (x y : Context) : Prop where
  C : ∀ j : Fin 16, y.C[j] = (Reference.checksumUpdate (bytesOf x.C) x.L b).1 j
  L : y.L = (Reference.checksumUpdate (bytesOf x.C) x.L b).2
  X : ∀ j : Fin 48, y.X[j] = Reference.permute (bytesOf x.X) b j

/-- R76: the block transform meets the pseudocode, whatever array holds the block. -/
theorem blockTransform_meetsPseudocode {b : Reference.Bytes} {B : Block} (hb : Represents b B) (x : Context) :
    MeetsPseudocode b x (blockTransform B x) where
  C j := (checksumUpdate_represents (bytesOf_represents x.C) hb x.L j j.isLt).symm
  L := (reference_checksumUpdate_carry (bytesOf_represents x.C) hb x.L).symm
  X j := (permute_represents (bytesOf_represents x.X) hb j j.isLt).symm

/-- Settles O13: the pseudocode on the operands' own bytes. -/
theorem checksumMeetsPseudocode : Obligations.ChecksumMeetsPseudocode := by
  intro x B
  have h := blockTransform_meetsPseudocode (bytesOf_represents B) x
  exact ⟨h.C, blockTransform_C B x, h.L⟩

/-! ## ABSORB -/

/-- R52: the block that ABSORB reads is the bytes on `din`. -/
theorem blockOfPort_represents (din : Port) : Represents (portByte din) (blockOfPort din) :=
  fun i h => (blockOfPort_getElem din i h).symm

/-- R76: ABSORB in phase OPEN transforms the block on `din`, and changes nothing but the context. -/
theorem exec_absorb_of_open {s : State} (h : s.phase = .OPEN) (din : Port) :
    exec (.absorb din) s = .next { s with ctx := blockTransform (blockOfPort din) s.ctx } := by
  rw [exec_eq_effect, effect, if_pos h]

/-- R76, R103: ABSORB in phase FINALIZED enters its fault. -/
theorem exec_absorb_of_finalized {s : State} (h : s.phase = .FINALIZED) (din : Port) :
    exec (.absorb din) s = .next (raiseFault .absorbAfterFinal 0x20 s) := by
  rw [exec_eq_effect, effect, if_neg (Phase.ne_open_iff.mpr h)]

/-- R51, R53: a word of INIT, ABSORB or READ with `ARG ≠ 0` is reserved. -/
theorem decode_illegal_of_arg_ne_zero {w : Byte} (ho : opc w = 0x1 ∨ opc w = 0x2 ∨ opc w = 0x4) (ha : arg w ≠ 0)
    (din : Port) : decode w din = .illegal .argNonzero := by
  rw [decode_eq_illegal_iff, Reserved.Covers]
  rw [Ne, arg_eq_zero_iff] at ha
  simp only [opc_eq_iff, BitVec.reduceToNat] at ho
  omega

/-- Settles O18, by the phase: the block transform meets the pseudocode in OPEN, and FINALIZED is a fault entry. -/
theorem absorbTransformsBlock : Obligations.AbsorbTransformsBlock := by
  refine ⟨fun din s h => ?_, fun din s h => exec_absorb_of_finalized h din,
    fun cmd din ho ha => decode_illegal_of_arg_ne_zero (.inr (.inl ho)) ha din⟩
  have hmeets := blockTransform_meetsPseudocode (blockOfPort_represents din) s.ctx
  exact ⟨_, exec_absorb_of_open h din, hmeets.C, hmeets.L, hmeets.X, h, rfl, rfl, rfl, rfl, rfl, rfl⟩

end Sys2Proof.Machine

/-! # The family 42_finalizer: PAD against its pseudocode, FINAL, READ, what reaches the ports, and HASH -/

namespace Sys2Proof.Machine.Reference

/-- A loop that writes at each index a value that depends on the index alone fills its range and leaves the rest. -/
theorem loop_fill {a b : Nat} (hab : a ≤ b) (f : Nat → Byte) (A : Bytes) (i : Nat) :
    loop a b (fun Y j => write Y j (f j)) A i = if a ≤ i ∧ i < b then f i else A i := by
  induction b, hab using Nat.le_induction with
  | base => simp [show ¬(a ≤ i ∧ i < a) by omega]
  | succ b hab ih =>
    rw [loop_succ hab]
    by_cases hi : i = b
    · subst hi
      rw [write_same, if_pos (by omega)]
    · rw [write_of_ne _ hi, ih]
      exact if_congr (by omega) rfl rfl

/-- R81: the pseudocode of PAD leaves the leftover bytes and then the pad length, whatever the buffer held. -/
theorem pad_apply (A P : Bytes) {n i : Nat} (hn : n ≤ 16) (hi : i < 16) :
    pad A P n i = if i < n then P i else BitVec.ofNat 8 (16 - n) := by
  rw [pad, loop_fill hn (fun _ => BitVec.ofNat 8 (16 - n)), loop_fill (Nat.zero_le n)]
  by_cases h : i < n
  · rw [if_neg (by omega), if_pos (by omega), if_pos h]
  · rw [if_pos (by omega), if_neg h]

end Sys2Proof.Machine.Reference

namespace Sys2Proof.Machine

/-! ## PAD -/

/-- R81, R84: the padded block, byte by byte. -/
theorem padBlock_getElem (n : BitVec 4) (din : Port) {i : Nat} (h : i < 16) :
    (padBlock n din)[i] = if i < n.toNat then portByte din i else BitVec.ofNat 8 (16 - n.toNat) := by
  rw [padBlock, leftoverCount_toNat, pad_getElem _ _ _ h]
  split
  · exact leftoverBytes_getD _ _ _ ‹_›
  · rfl

/-- R81: PAD computes what its pseudocode computes, from any contents of the buffer. -/
theorem padBlock_represents (A : Reference.Bytes) (n : BitVec 4) (din : Port) :
    Represents (Reference.pad A (portByte din) n.toNat) (padBlock n din) := by
  intro i hi
  rw [padBlock_getElem n din hi, Reference.pad_apply A _ n.isLt.le hi]

/-- Settles O15, by the padded block's bytes on both sides of `n`; the pseudocode leaves the same block. -/
theorem padFillsWithPadLength : Obligations.PadFillsWithPadLength := by
  intro n din i
  have hn : n.toNat < 16 := n.isLt
  refine ⟨fun h => ?_, fun h => ⟨?_, by omega, by omega⟩, fun A => (padBlock_represents A n din i i.isLt).symm⟩
  · exact (padBlock_getElem n din i.isLt).trans (if_pos h)
  · rw [Fin.getElem_fin, padBlock_getElem n din i.isLt, if_neg (by omega), BitVec.toNat_ofNat]
    omega

/-- R82: with no leftover byte the whole block is padding. -/
theorem padBlock_zero (din : Port) : padBlock 0 din = Vector.replicate 16 0x10 :=
  Vector.ext fun i h => by
    rw [padBlock_getElem 0 din h, if_neg (by simp), Vector.getElem_replicate]
    rfl

/-- R56, R81: the padded block of an issue that carries the `n` leftover bytes of a message. -/
theorem padBlock_portOfBytes (bytes : List Byte) {n : Nat} (h : n < 16) :
    padBlock (BitVec.ofNat 4 n) (portOfBytes bytes) = pad bytes n := by
  have hn : (BitVec.ofNat 4 n).toNat = n := (BitVec.toNat_ofNat n 4).trans (Nat.mod_eq_of_lt h)
  refine Vector.ext fun i hi => ?_
  rw [padBlock_getElem _ _ hi, hn, pad_getElem _ _ _ hi, portByte_portOfBytes bytes hi]

/-! ## FINAL -/

/-- R83: FINAL in phase OPEN finalizes the context with the padded block, and ends the phase. -/
theorem exec_final_of_open {s : State} (h : s.phase = .OPEN) (n : BitVec 4) (din : Port) :
    exec (.final n din) s = .next { s with ctx := finalize (padBlock n din) s.ctx, phase := .FINALIZED } := by
  rw [exec_eq_effect, effect, if_pos h]

/-- R83, R104: FINAL in phase FINALIZED enters its fault. -/
theorem exec_final_of_finalized {s : State} (h : s.phase = .FINALIZED) (n : BitVec 4) (din : Port) :
    exec (.final n din) s = .next (raiseFault .finalAfterFinal (Instr.final n din).word s) := by
  rw [exec_eq_effect, effect, if_neg (Phase.ne_open_iff.mpr h), Instr.word]

/-- R50, R51: FINAL's word as a number. -/
theorem final_word_toNat (n : BitVec 4) (din : Port) : (Instr.final n din).word.toNat = 0x30 + n.toNat := by
  have hopc := opc_toNat (Instr.final n din).word
  have harg := arg_toNat (Instr.final n din).word
  simp only [Instr.word, opc_append, arg_append, BitVec.reduceToNat] at hopc harg ⊢
  omega

/-- R83, R86: step 3 permutes what the pseudocode of step 2 left with the checksum that step 2 left. -/
theorem finalize_X_meetsPseudocode {b : Reference.Bytes} {B : Block} (hb : Represents b B) (x : Context) (j : Fin 48) :
    (finalize B x).X[j] =
      Reference.permute (Reference.permute (bytesOf x.X) b) (bytesOf (finalize B x).C) j :=
  (permute_represents (permute_represents (bytesOf_represents x.X) hb) (bytesOf_represents _) j j.isLt).symm

/-- Settles O19, by the phase: in OPEN each step meets its pseudocode on the padded block, and FINALIZED is a fault entry. -/
theorem finalPadsAbsorbsAndFolds : Obligations.FinalPadsAbsorbsAndFolds := by
  refine ⟨fun n din s h => ?_, fun n din s h => ⟨_, final_word_toNat n din, exec_final_of_finalized h n din⟩⟩
  have hpad := padBlock_represents (fun _ => 0) n din
  have hupdate := blockTransform_meetsPseudocode hpad s.ctx
  exact ⟨_, exec_final_of_open h n din, hupdate.C, hupdate.L, finalize_X_meetsPseudocode hpad s.ctx, rfl, rfl,
    rfl, rfl, rfl, rfl, rfl⟩

/-! ## READ, and what reaches the ports -/

/-- R89, R105: READ in phase OPEN enters its fault. -/
theorem exec_read_of_open {s : State} (h : s.phase = .OPEN) :
    exec .read s = .next (raiseFault .readBeforeFinal 0x40 s) := by
  rw [exec_eq_effect, effect, if_neg (Phase.ne_finalized_iff.mpr h)]

/-- R38, R89: byte `i` of the digest's port is byte `i` of lane 0. -/
theorem portByte_digest (X : MixState) {i : Nat} (h : i < 16) : portByte (portOfBlock (lane0 X)) i = X[i] := by
  rw [portByte_portOfBlock _ h, lane0_getElem X i h]

/-- Settles O21, by the phase: FINALIZED reads lane 0, and OPEN is a fault entry. -/
theorem readOutputsDigest : Obligations.ReadOutputsDigest := by
  refine ⟨fun s h => ?_, fun _ h => exec_read_of_open h,
    fun _ din ho ha => decode_illegal_of_arg_ne_zero (.inr (.inr ho)) ha din⟩
  refine ⟨_, exec_read_of_finalized h, fun i hi => ?_, rfl, h, rfl, rfl, rfl, rfl, by dsimp only⟩
  dsimp only
  exact portByte_digest s.ctx.X hi

/-- R91: of the context only lane 0 reaches a field outside it: with another context of the same lane 0, a command leaves
the same state but for the context. -/
theorem effect_with_ctx {s : State} {x : Context} (h : lane0 x.X = lane0 s.ctx.X) (i : Instr) :
    ∃ y, effect i { s with ctx := x } = { effect i s with ctx := y } := by
  cases i with
  | init => exact ⟨Context.zero, rfl⟩
  | absorb din =>
    by_cases hp : s.phase = .OPEN
    · exact ⟨blockTransform (blockOfPort din) x, by simp only [effect, if_pos hp]⟩
    · exact ⟨x, by simp only [effect, if_neg hp, raiseFault]⟩
  | final n din =>
    by_cases hp : s.phase = .OPEN
    · exact ⟨finalize (padBlock n din) x, by simp only [effect, if_pos hp]⟩
    · exact ⟨x, by simp only [effect, if_neg hp, raiseFault]⟩
  | read =>
    by_cases hp : s.phase = .FINALIZED
    · exact ⟨x, by simp only [effect, if_pos hp, h]⟩
    · exact ⟨x, by simp only [effect, if_neg hp, raiseFault]⟩

/-- Settles O23: the two states after the command differ in the context alone. -/
theorem onlyLane0IsOutput : Obligations.OnlyLane0IsOutput := by
  intro i s t hlane hs
  obtain ⟨y, hy⟩ := effect_with_ctx hlane i
  rw [← hs] at hy
  refine ⟨_, _, exec_eq_effect i s, exec_eq_effect i t, ?_⟩
  rw [hy]
  exact ⟨rfl, rfl, rfl, rfl⟩

/-! ## The issues of HASH -/

/-- R58: ABSORBN with count `k` sees the first `16k` bytes. -/
theorem absorbIssues_take (k : Nat) (bytes : List Byte) :
    absorbIssues k (bytes.take (16 * k)) = absorbIssues k bytes := by
  refine List.map_congr_left fun i hi => ?_
  have hroom : 16 ≤ 16 * k - 16 * i := by
    have := List.mem_range.mp hi
    omega
  rw [List.drop_take, List.take_take, Nat.min_eq_left hroom]

/-- R59, R92: the issues of HASH, one ABSORB for each full block of the message. -/
theorem hashIssues_eq (M : List Byte) :
    hashIssues M = encode .init :: (absorbIssues (fullBlocks M) M ++
      [finalIssue (leftoverLength M) (M.drop (16 * fullBlocks M)), encode .read]) := by
  rw [← absorbIssues_take]
  rfl

/-- R92: fewer bytes than a block are left over. -/
theorem leftoverLength_eq_mod (M : List Byte) : leftoverLength M = M.length % 16 := by
  rw [leftoverLength, fullBlocks]
  omega

theorem leftoverLength_lt (M : List Byte) : leftoverLength M < 16 := by
  rw [leftoverLength_eq_mod]
  exact Nat.mod_lt _ (by decide)

/-- Settles O16: with no byte left over, HASH's FINAL is FINAL 0, whose padded block is all padding. -/
theorem alignedMessageGetsFullPadBlock : Obligations.AlignedMessageGetsFullPadBlock := by
  refine ⟨padBlock_zero, fun M h => ⟨finalIssue 0 (M.drop (16 * fullBlocks M)), rfl, ?_⟩, fun s din h => ?_⟩
  · rw [hashIssues_eq, leftoverLength_eq_mod, h, fullBlocks]
  · rw [exec_final_of_open h, padBlock_zero]

/-! ## Running HASH -/

/-- R93, R97: an INIT that is issued zeroes the context and opens the phase, and `k` moves past it. -/
theorem step_of_init {s : State} (hn : s.nextIssue (encode .init)) :
    step s = .next { s with ctx := Context.zero, phase := .OPEN, k := s.k + 1 } := by
  rw [step_of_command hn (decode_encode _), effect, advance_of_good]
  exact hn.1

/-- R83, R97: a FINAL issued in phase OPEN with its leftover bytes finalizes the context with them, and `k` moves past it. -/
theorem step_of_finalIssue {s : State} {n : Nat} {bytes : List Byte} (h : n < 16)
    (hn : s.nextIssue (finalIssue n bytes)) (hp : s.phase = .OPEN) :
    step s = .next { s with ctx := finalize (pad bytes n) s.ctx, phase := .FINALIZED, k := s.k + 1 } := by
  rw [step_of_command hn (decode_encode _), effect, if_pos hp, padBlock_portOfBytes bytes h, advance_of_good]
  exact hn.1

/-- R89, R97: a READ issued in phase FINALIZED outputs lane 0, and `k` moves past it. -/
theorem step_of_read {s : State} (hn : s.nextIssue (encode .read)) (hp : s.phase = .FINALIZED) :
    step s = .next { s with
      dout := portOfBlock (lane0 s.ctx.X)
      reads := s.reads ++ [portOfBlock (lane0 s.ctx.X)]
      k := s.k + 1 } := by
  rw [step_of_command hn (decode_encode _), effect, if_pos hp, advance_of_good]
  exact hn.1

/-- The steps after a first step that answered a next state. -/
theorem runSteps_succ_of_step {s t : State} (h : step s = .next t) (n : Nat) :
    runSteps (n + 1) s = runSteps n t := by
  simp [runSteps, h]

/-- R92: INIT and HASH's ABSORBs leave the context of MD2's full blocks, from any context and phase. -/
theorem runSteps_init_absorbIssues (M : List Byte) (q : Nat) {s : State} {rest : List Issue} (hf : s.fault = none)
    (hprog : s.program.drop s.k = encode .init :: (absorbIssues q M ++ rest)) :
    runSteps (q + 1) s =
      .next { s with ctx := absorbBlocks M q Context.zero, phase := .OPEN, k := s.k + 1 + q } := by
  have hinit : s.program[s.k]? = some (encode .init) := by
    rw [← Nat.add_zero s.k, ← List.getElem?_drop, hprog, List.getElem?_cons_zero]
  have htail : s.program.drop (s.k + 1) = absorbIssues q M ++ rest := by
    rw [← List.drop_drop, hprog, List.drop_one, List.tail_cons]
  rw [runSteps_succ_of_step (step_of_init ⟨hf, hinit⟩)]
  exact runSteps_absorbIssues M q hf rfl htail

/-- Settles O41: INIT and the ABSORBs, then FINAL with the leftover bytes, then READ. -/
theorem hashComputesMd2 : Obligations.HashComputesMd2 := by
  intro M s rest hf hprog
  rw [hashIssues_eq, List.cons_append, List.append_assoc] at hprog
  have hfinal : s.program[s.k + 1 + fullBlocks M]? =
      some (finalIssue (leftoverLength M) (M.drop (16 * fullBlocks M))) := by
    rw [Nat.add_assoc, ← List.getElem?_drop, hprog]
    simp [Nat.add_comm 1]
  have hread : s.program[s.k + 1 + fullBlocks M + 1]? = some (encode .read) := by
    rw [Nat.add_assoc, Nat.add_assoc, ← List.getElem?_drop, hprog]
    simp [Nat.add_comm 1]
  have habsorbed := runSteps_init_absorbIssues M (fullBlocks M) hf hprog
  have hfinalized := runSteps_succ_of_next habsorbed
    (step_of_finalIssue (leftoverLength_lt M) ⟨hf, hfinal⟩ rfl)
  have hdone := runSteps_succ_of_next hfinalized (step_of_read ⟨hf, hread⟩ rfl)
  rw [hdone, show s.k + fullBlocks M + 3 = s.k + 1 + fullBlocks M + 1 + 1 by omega]
  rfl

end Sys2Proof.Machine

/-! # The family 43_context_control: INIT, and a step as the command it decodes -/

namespace Sys2Proof.Machine

/-! ## INIT -/

/-- R93: INIT zeroes the context and opens the phase, in every state. -/
theorem exec_init (s : State) : exec .init s = .next { s with ctx := Context.zero, phase := .OPEN } :=
  exec_eq_effect .init s

/-- Settles O17, by what INIT does in every state; the state it leaves is one that a second INIT leaves as it is. -/
theorem initZeroesContext : Obligations.InitZeroesContext := by
  refine ⟨fun s => ⟨_, exec_init s, ?_⟩, fun _ din ho ha => decode_illegal_of_arg_ne_zero (.inl ho) ha din⟩
  have htwice := exec_init { s with ctx := Context.zero, phase := .OPEN }
  exact ⟨zero_C, zero_L, zero_X, rfl, rfl, ⟨rfl, rfl, rfl, rfl, rfl⟩, htwice⟩

/-- Settles O24: what INIT writes are the reset values, and it writes nothing else. -/
theorem initGivesResetContext : Obligations.InitGivesResetContext :=
  fun s => ⟨_, exec_init s, reset_ctx.symm, reset_phase.symm, rfl, rfl⟩

/-- Settles O25: INIT overwrites the two fields the states differ in. -/
theorem initForgetsContext : Obligations.InitForgetsContext :=
  fun s x p => ⟨_, exec_init s, exec_init { s with ctx := x, phase := p }⟩

/-! ## A step that runs a command -/

/-- R97: a command does not write the host's index; the step moves it. -/
@[simp] theorem effect_k (i : Instr) (s : State) : (effect i s).k = s.k := by
  cases i with
  | init => rfl
  | absorb _ | final _ _ | read =>
    rw [effect]
    split <;> rfl

/-- Settles O30: the step is the command's effect and then the advance, which turns on whether the command faulted. -/
theorem stepRunsDecodedCommand : Obligations.StepRunsDecodedCommand := by
  intro s c i hn hd
  have hstep := step_of_command hn hd
  refine ⟨effect i s, exec_eq_effect i s, fun hgood => ?_, fun hfault => ?_⟩
  · rw [hstep, advance_of_good hgood, effect_k]
  · rw [hstep, advance_of_faulted hfault]

end Sys2Proof.Machine

/-! # The family 60_exceptions: which fault a command raises, what it leaves unchanged, and how a faulted run ends -/

namespace Sys2Proof.Machine

/-! ## The fault of a command -/

/-- R103 to R105: the record that the command `i`, issued as the word `w`, enters in phase `p`: its own phase fault in
the phase that forbids it, and none in the other. -/
def phaseFault (i : Instr) (w : Byte) (p : Phase) : Option FaultRecord :=
  match i with
  | .init => none
  | .absorb _ => if p = .FINALIZED then some ⟨.absorbAfterFinal, w⟩ else none
  | .final _ _ => if p = .FINALIZED then some ⟨.finalAfterFinal, w⟩ else none
  | .read => if p = .OPEN then some ⟨.readBeforeFinal, w⟩ else none

/-- R103 to R105, R109: a command enters its phase fault, and otherwise leaves the record as it was. -/
theorem effect_fault (i : Instr) (s : State) : (effect i s).fault = (phaseFault i i.word s.phase).or s.fault := by
  cases i with
  | init => rfl
  | absorb _ | final _ _ | read => cases hp : s.phase <;> simp [effect, phaseFault, Instr.word, hp]

/-- R107: a command that is issued with no fault recorded leaves its phase fault, with the word it was issued as. -/
theorem fault_of_command {s t : State} {c : Issue} {i : Instr} (hn : s.nextIssue c)
    (hd : decode c.cmd c.din = .command i) (h : step s = .next t) : t.fault = phaseFault i c.cmd s.phase := by
  cases (step_of_command hn hd).symm.trans h
  rw [advance_fault, effect_fault, hn.1, Option.or_none, (decode_eq_command_iff.mp hd).1]

/-- R61: the words that decode to a command are legal. -/
theorem word_mem_legalWords (i : Instr) : i.word ∈ legalWords := by
  cases i with
  | init => exact Laws.LegalWord.init
  | absorb din => exact Laws.LegalWord.absorb din
  | final n din => exact Laws.LegalWord.final n din
  | read => exact Laws.LegalWord.read

theorem decode_illegal_of_not_mem_legalWords {w : Byte} (h : w ∉ legalWords) (din : Port) :
    ∃ why, decode w din = .illegal why := by
  cases hd : decode w din with
  | command i => exact absurd ((decode_eq_command_iff.mp hd).1 ▸ word_mem_legalWords i) h
  | illegal why => exact ⟨why, rfl⟩

/-- R102, R107: a word that is not legal enters ILLEGAL_COMMAND, in either phase. -/
theorem fault_of_not_mem_legalWords {s t : State} {c : Issue} (hn : s.nextIssue c) (hw : c.cmd ∉ legalWords)
    (h : step s = .next t) : t.fault = some ⟨.illegalCommand, c.cmd⟩ := by
  obtain ⟨why, hd⟩ := decode_illegal_of_not_mem_legalWords hw c.din
  cases (step_of_illegal hn hd).symm.trans h
  rfl

/-- R95: every issue, whatever its word, answers a next state. -/
theorem runIssue_eq_next (c : Issue) (s : State) : ∃ t, runIssue c s = .next t := by
  obtain ⟨_, -, hr⟩ | ⟨_, -, hr⟩ := runIssue_cases c s <;> exact ⟨_, hr⟩

/-- Settles O26, by decoding the word: a reserved one is a fault entry, and a command enters its phase fault. -/
theorem faultCausesAndPriority : Obligations.FaultCausesAndPriority := by
  intro s c hn
  obtain ⟨t, hrun⟩ := runIssue_eq_next c s
  have ht : step s = .next t := (step_of_nextIssue hn.1 hn.2).trans hrun
  have hcommand {i : Instr} (hd : decode c.cmd c.din = .command i) := fault_of_command hn hd ht
  refine ⟨t, ht, fun hw => fault_of_not_mem_legalWords hn hw ht, fun hw => ?_, fun hw => ?_, fun hw => ?_, fun hw => ?_,
    rfl, rfl, rfl, rfl⟩
  · exact hcommand (i := .init) (decode_eq_command_iff.mpr ⟨hw, sampleFits_init c.din⟩)
  · exact hcommand (i := .absorb c.din) (decode_eq_command_iff.mpr ⟨hw, sampleFits_sample _⟩)
  · have hopc : opc c.cmd = 0x3 := opc_eq_iff.mpr (by simp only [BitVec.reduceToNat]; omega)
    exact hcommand (decode_eq_final_iff.mpr ⟨hopc, rfl, rfl⟩)
  · exact hcommand (i := .read) (decode_eq_command_iff.mpr ⟨hw, sampleFits_read c.din⟩)

/-- Settles O27: of the runs of an issue, only a fault entry leaves a record where there was none. -/
theorem faultEntryIsPrecise : Obligations.FaultEntryIsPrecise := by
  intro s t c hn h hfault
  cases runs_of_step hn h with
  | faulted cause => exact ⟨cause, rfl⟩
  | _ => exact absurd hn.1 hfault

/-! ## How a faulted run ends -/

/-- Settles O29, by the cases of a step: it runs an issue, starts the next run, halts at a fault, or holds. -/
theorem stepStopsOnlyWhenFaulted : Obligations.StepStopsOnlyWhenFaulted := by
  intro s
  obtain ⟨c, -, -, hs⟩ | ⟨-, hrst | hhalt | hhold⟩ := step_cases s
  · exact .inl (hs ▸ runIssue_eq_next c s)
  · obtain ⟨run, later, -, hs⟩ := hrst
    exact .inl ⟨_, hs⟩
  · obtain ⟨r, hl, hf, hs⟩ := hhalt
    exact .inr ⟨r, hf, hl, hs⟩
  · obtain ⟨-, -, hs⟩ := hhold
    exact .inl ⟨s, hs⟩

/-- R109: a command run on a faulted state leaves it faulted. -/
theorem effect_fault_ne_none (i : Instr) {s : State} (h : s.fault ≠ none) : (effect i s).fault ≠ none := by
  simp [effect_fault, Option.or_eq_none_iff, h]

/-- R131: a run that has ended issues no more commands. -/
theorem step_of_runEnded {s : State} (h : s.runEnded) : step s = endOfRun s := by
  unfold step stepHost
  split
  next hf hp => exact absurd h (not_or.mpr ⟨Nat.not_le.mpr (k_lt_of_nextIssue ⟨hf, hp⟩), not_not.mpr hf⟩)
  next => rfl

/-- R118, R131: what ends a run is the reset of the next one. -/
theorem endOfRun_of_laterRuns {s : State} {run : List Issue} {later : List (List Issue)}
    (h : s.laterRuns = run :: later) : endOfRun s = .next (assertRst run later s) := by
  rw [endOfRun, h]

/-- R109: with no run to come, a faulted state takes no step. -/
theorem endOfRun_of_fault {s : State} {r : FaultRecord} (hl : s.laterRuns = []) (hf : s.fault = some r) :
    endOfRun s = .fault (.halted r) := by
  rw [endOfRun, hl, hf]

/-- Settles O28, by the record that a command leaves and by the end of a run. -/
theorem faultIsTerminal : Obligations.FaultIsTerminal := by
  refine ⟨fun i s t h hf => ?_, fun s r hf => ?_⟩
  · cases (exec_eq_effect i s).symm.trans h
    exact effect_fault_ne_none i hf
  · have hstep : step s = endOfRun s := step_of_runEnded (.inr (by simp [hf]))
    exact ⟨fun hl => hstep.trans (endOfRun_of_fault hl hf), fun run later hl => hstep.trans (endOfRun_of_laterRuns hl)⟩

end Sys2Proof.Machine

/-! # The family 70_reset_and_hazards: what follows the end of a run -/

namespace Sys2Proof.Machine

/-- R117: with no run to come, a state with no fault holds. -/
theorem endOfRun_of_no_fault {s : State} (hl : s.laterRuns = []) (hf : s.fault = none) : endOfRun s = .next s := by
  rw [endOfRun, hl, hf]

/-- Settles O35, by the end of a run: the next reset if a run is to come, and the same state if none is. -/
theorem endedRunResetsOrHolds : Obligations.EndedRunResetsOrHolds := by
  intro s h
  have hstep : step s = endOfRun s := step_of_runEnded h
  exact ⟨fun run later hl => hstep.trans (endOfRun_of_laterRuns hl),
    fun hl hf => hstep.trans (endOfRun_of_no_fault hl hf)⟩

end Sys2Proof.Machine
